-- ==== Sys2Proof/Word.lean ====
section
/-! DEFINITION. The types of the values the block moves: NUM and BIT, and the command word of the command port. The spec's
INT, the unbounded integers of the counters (00_scope.md R8; log 2), is Lean's own type Int, and is written so. -/

namespace Sys2Proof

/-- NUM, the number system of every "real number" of the source: exact rationals
(00_scope.md R7; DESIGN CHOICE of the spec, D2, log 1: unsafe). -/
abbrev NUM := Rat

/-- BIT = (0, 1), the type of the gates and of the edge flag; `1 - b` is the complement (00_scope.md R9; log 19). -/
abbrev BIT := BitVec 1

/-- One word of the command port: the 2-bit code `op[1:0]` and the four elements of the input vector.
Every command has the same length (30_encoding.md R50, R51, R52); a word of format N carries four
elements that nothing reads (log 10). -/
structure Command where
  op  : BitVec 2
  in0 : NUM
  in1 : NUM
  in2 : NUM
  in3 : NUM
deriving DecidableEq, Repr

end Sys2Proof
end

