-- ==== Sys2Proof/Config.lean ====
section
/-! DEFINITION. The Parameter Set of an instance, and its free value at reset. -/

namespace Sys2Proof

/-- The Parameter Set `P`: six numbers, "immutable after initialization", every NUM legal for each
(00_scope.md R5, 10_state.md R25). The field names are the spec's. -/
structure Params where
  /-- proportional gain -/
  Kp : NUM
  /-- integral gain -/
  Ki : NUM
  /-- sample period in seconds, the duration of one tick -/
  Ts : NUM
  /-- target switching frequency in Hz -/
  fsw : NUM
  /-- voltage setpoint, in the unit of the input Vout -/
  Vref : NUM
  /-- deadtime in seconds -/
  deadtime_s : NUM
deriving DecidableEq, Repr, Inhabited

/-- FREE VALUE (log 6, DESIGN CHOICE, safe): the six parameters that the source names and gives no value
(00_scope.md R5, 92_eei_decisions.md D17). It has no body that a proof can see: what is proved of it holds
for every Parameter Set. Only `State.reset` uses it; every meaning takes `P` from the state. -/
opaque Config.params : Params

end Sys2Proof
end

