-- ==== Sys2Proof/Syntax.lean ====
section
/-! DEFINITION. The block's instructions: the three host operations, one constructor per row of spec/opcode_table.json. -/

namespace Sys2Proof

/-- The host operations, "exactly three" (30_encoding.md R50). -/
inductive Instr where
  /-- INIT: `Initialize() → void` (42_lifecycle.md R90). -/
  | init
  /-- STEP: `Step(input_vector[4]) → output_vector[2]`; the elements are Vin, Iin, Vout, Iout in this
  order (42_lifecycle.md R91, 20_memory.md R41). -/
  | step (in0 in1 in2 in3 : NUM)
  /-- TERM: `Terminate() → void` (42_lifecycle.md R92). -/
  | term
deriving DecidableEq, Repr

end Sys2Proof
end

