-- ==== Sys2Proof/WellFormed.lean ====
section
/-! DEFINITION. Which instructions and which command words the spec gives a meaning to. -/

namespace Sys2Proof

/-- Every instruction is well formed: INIT and TERM have no operand, and "all numeric inputs are accepted",
so every value of every element of STEP's vector is legal (30_encoding.md R54). -/
def Instr.wellFormed (i : Instr) : Bool :=
  match i with
  | .init => true
  | .step _ _ _ _ => true
  | .term => true

/-- A command word is well formed unless its code is the reserved `00` (30_encoding.md R54). -/
def Command.wellFormed (c : Command) : Bool := c.op != 0#2

end Sys2Proof
end

