-- ==== Sys2Proof/Decode.lean ====
section
/-! DEFINITION. The decoder and the encoder of the command word, from the table of 30_encoding.md R51. -/

namespace Sys2Proof

/-- What a command word decodes to: "INIT, STEP, TERM or reserved, and nothing else is consulted"
(30_encoding.md R55). -/
inductive Decoded where
  /-- one of the three operations -/
  | instr (i : Instr)
  /-- the reserved code `00`, rejected by this name (30_encoding.md R54) -/
  | reservedOp
deriving DecidableEq, Repr

/-- The command code of INIT (30_encoding.md R51). -/
def opInit : BitVec 2 := 0b01#2

/-- The command code of STEP (30_encoding.md R51). -/
def opStep : BitVec 2 := 0b10#2

/-- The command code of TERM (30_encoding.md R51). -/
def opTerm : BitVec 2 := 0b11#2

/-- Decoding, total on every command word (30_encoding.md R51, R55). STEP takes the four elements whole
(R53); INIT and TERM ignore them (R52). -/
def decode (c : Command) : Decoded :=
  if c.op = opInit then .instr .init
  else if c.op = opStep then .instr (.step c.in0 c.in1 c.in2 c.in3)
  else if c.op = opTerm then .instr .term
  else .reservedOp

/-- The word of an instruction (30_encoding.md R50, R51). In format N the four elements, which the spec calls
absent or ignored (R52), are written as zero: DESIGN CHOICE, safe, log 10. -/
def encode (i : Instr) : Command :=
  match i with
  | .init => ⟨opInit, 0, 0, 0, 0⟩
  | .step in0 in1 in2 in3 => ⟨opStep, in0, in1, in2, in3⟩
  | .term => ⟨opTerm, 0, 0, 0, 0⟩

/-- The command word that stands for the table's number `w` of `nbits` bits: `op` is bits 1 to 0, bits above
them belong to no field (the table's mask is 3), and the four operand words are zero (log 11). -/
def tableCommand (nbits w : Nat) : Command := ⟨BitVec.ofNat 2 (w % 2 ^ nbits), 0, 0, 0, 0⟩

/-- The instruction the decoder reads from the table's number `w` of `nbits` bits; none where it rejects. -/
def decodeTableWord (nbits w : Nat) : Option Instr :=
  match decode (tableCommand nbits w) with
  | .instr i => some i
  | .reservedOp => none

end Sys2Proof
end

