-- ==== Sys2Proof/Machine/Constants.lean ====
section
/-! DEFINITION. The six numeric literals of the source, each named once (00_scope.md R6, 92_eei_decisions.md D18).
UNVERIFIED against the repository by the spec's own warning: log 3, unsafe. -/

namespace Sys2Proof.Machine

/-- `INTEG_LO`, the lower anti-windup bound of integ: 0.0 (00_scope.md R6). -/
def integLo : NUM := 0

/-- `INTEG_HI`, the upper anti-windup bound of integ: 1.0 (00_scope.md R6). -/
def integHi : NUM := 1

/-- `DUTY_LO`, the duty floor: 0.02 = 1/50 (00_scope.md R6). -/
def dutyLo : NUM := 1 / 50

/-- `DUTY_HI`, the duty ceiling: 0.98 = 49/50 (00_scope.md R6). -/
def dutyHi : NUM := 49 / 50

/-- `PERIOD_MIN`, the least period_counts: 2 (00_scope.md R6). -/
def periodMin : Int := 2

/-- `PERIOD_DEFAULT`, the period_counts of a degenerate configuration: 100 (00_scope.md R6). -/
def periodDefault : Int := 100

end Sys2Proof.Machine
end

