-- ==== Sys2Proof/Machine/Num.lean ====
section
/-! DEFINITION. The arithmetic primitives of the spec's pseudocode: clamp, floor, round, div 2 and real (00_scope.md R9 to R13). -/

namespace Sys2Proof.Machine

/-- `clamp(x, lo, hi)`, both bounds inclusive (00_scope.md R10; log 20). -/
def clamp {α : Type} [LT α] [DecidableLT α] (x lo hi : α) : α :=
  if x < lo then lo else if hi < x then hi else x

/-- `floor(x)`, the greatest Int not above x (00_scope.md R11). -/
def floor (x : NUM) : Int := Rat.floor x

/-- `round(x)`, the Int nearest to x, a tie going away from zero (00_scope.md R12; the tie rule is the spec's
choice D4: DESIGN CHOICE, unsafe, log 4). -/
def round (x : NUM) : Int :=
  if 0 ≤ x then floor (x + 1 / 2) else -floor (-x + 1 / 2)

/-- `n div 2`, the half rounded down (00_scope.md R13; the spec's choice D5, log 5). -/
def div2 (n : Int) : Int := n / 2

/-- `real(b)`, the source's real number for a gate bit: 1.0 for on, 0.0 for off (00_scope.md R9). -/
def real (b : BIT) : NUM := if b = 1#1 then 1 else 0

end Sys2Proof.Machine
end

