-- ==== Sys2Proof/Machine/Regs.lean ====
section
/-! DEFINITION. The six state fields of the block, grouped by the component that owns them (10_state.md R20), and the
two pairs of gate bits a step passes on. -/

namespace Sys2Proof.Machine

/-- The state of the Controller (10_state.md R20, R21). -/
structure Controller where
  /-- the accumulated integral term -/
  integ : NUM
deriving DecidableEq, Repr

/-- The state of the PWM Generator (10_state.md R20). -/
structure PwmGen where
  /-- ticks per PWM period (R26) -/
  period_counts : Int
  /-- deadtime in ticks; 0 disables deadtime insertion (R27) -/
  dead_counts : Int
  /-- the free-running counter (R22) -/
  cnt : Int
  /-- previous tick's un-blanked high-side gate state, the edge flag (R24) -/
  last_raw_u : BIT
  /-- remaining ticks of active blanking (R23) -/
  dt_counter : Int
deriving DecidableEq, Repr

/-- The complete mutable state `S` of one instance: exactly six fields (10_state.md R20). -/
structure Regs where
  ctrl : Controller
  pwm  : PwmGen
deriving DecidableEq, Repr

/-- The gate bits that PWM.STEP returns (41_pwm_generator.md R73). -/
structure Gates where
  gate_high : BIT
  gate_low  : BIT
deriving DecidableEq, Repr

/-- The output vector of STEP: `out[0]` and `out[1]`, the response the host receives (20_memory.md R41). -/
structure Response where
  out0 : BIT
  out1 : BIT
deriving DecidableEq, Repr

end Sys2Proof.Machine
end

