-- ==== Sys2Proof/Machine/Operands.lean ====
section
/-! DEFINITION. The operand vectors of STEP: which element is read, and how the response is assembled (20_memory.md R41, R42,
30_encoding.md R53). -/

namespace Sys2Proof.Machine

/-- The input vector of STEP, `[Vin, Iin, Vout, Iout]` in this order (20_memory.md R41). -/
def inVector (in0 in1 in2 in3 : NUM) : Vector NUM 4 := #v[in0, in1, in2, in3]

/-- The measured output voltage, `in[2]`: the only element any rule reads (20_memory.md R42, 42_lifecycle.md R95). -/
def measuredVout (v : Vector NUM 4) : NUM := v[2]

/-- The output vector: `out[0] = gate_high`, `out[1] = gate_low` (30_encoding.md R53). -/
def outVector (g : Gates) : Response := ⟨g.gate_high, g.gate_low⟩

end Sys2Proof.Machine
end

