-- ==== Sys2Proof/Machine/Controller.lean ====
section
/-! DEFINITION. The Controller: CTRL.INIT and CTRL.STEP, the PI law with anti-windup clamping (40_controller.md). -/

namespace Sys2Proof.Machine

/-- CTRL.INIT (40_controller.md R60): `integ <- 0` from every prior state, reading nothing. -/
def ctrlInit : Controller := ⟨0⟩

/-- CTRL.STEP step 1: `error = Vref - v` (40_controller.md R61). -/
def errorOf (P : Params) (v : NUM) : NUM := P.Vref - v

/-- CTRL.STEP steps 2 and 3: the new integ, the unclamped sum clamped to [INTEG_LO, INTEG_HI]; the product is
taken left to right (40_controller.md R61, 00_scope.md R14). -/
def nextInteg (P : Params) (integ v : NUM) : NUM :=
  clamp (integ + P.Ki * P.Ts * errorOf P v) integLo integHi

/-- CTRL.STEP steps 4 and 5: the duty from the NEW integ, clamped to [DUTY_LO, DUTY_HI] (40_controller.md R61). -/
def dutyOf (P : Params) (newInteg v : NUM) : NUM :=
  clamp (P.Kp * errorOf P v + newInteg) dutyLo dutyHi

/-- CTRL.STEP(v) → duty (40_controller.md R61): the Controller after the step, and the duty it returns. -/
def ctrlStep (P : Params) (c : Controller) (v : NUM) : Controller × NUM :=
  (⟨nextInteg P c.integ v⟩, dutyOf P (nextInteg P c.integ v) v)

end Sys2Proof.Machine
end

