-- ==== Sys2Proof/Machine/Flags.lean ====
section
/-! DEFINITION. The raw gate bits and the block's one flag, last_raw_u: the edge test, its arming of the blanking
counter, and its update (41_pwm_generator.md R73 S3, S4a, S4d; 10_state.md R24). -/

namespace Sys2Proof.Machine

/-- S3: `raw_high`, the high-side command before blanking: 1 exactly while cnt is below on_counts. -/
def rawHigh (cnt onCounts : Int) : BIT := if cnt < onCounts then 1#1 else 0#1

/-- S3: `raw_low = 1 - raw_high`. -/
def rawLow (raw : BIT) : BIT := 1#1 - raw

/-- The edge test of S4a: this tick's `raw_high` differs from `last_raw_u`, whatever wrote it
(10_state.md R24, 90_conflicts.md C10). -/
def edge (g : PwmGen) (raw : BIT) : Bool := raw != g.last_raw_u

/-- S4a: the value of `dt_counter` that S4b tests. An edge sets it to `dead_counts`: an assignment, so a window
that is open restarts (41_pwm_generator.md R78). -/
def armed (g : PwmGen) (raw : BIT) : Int := if edge g raw then g.dead_counts else g.dt_counter

/-- S4d: `last_raw_u <- raw_high`, on both arms of S4b. -/
def latchRaw (g : PwmGen) (raw : BIT) : PwmGen := { g with last_raw_u := raw }

end Sys2Proof.Machine
end

