-- ==== Sys2Proof/Machine/Pwm.lean ====
section
/-! DEFINITION. The PWM Generator: PWM.INIT (steps I1 to I3) and PWM.STEP (steps S1 to S6) of 41_pwm_generator.md R70, R73. -/

namespace Sys2Proof.Machine

/-- I1: `period_counts`, the rounded number of ticks in a switching period, at least PERIOD_MIN; the default 100
where the positive test fails (41_pwm_generator.md R70; 60_exceptions.md R101 A1, A4). -/
def periodCounts (P : Params) : Int :=
  if 0 < P.Ts ∧ 0 < P.fsw then max periodMin (round (1 / (P.fsw * P.Ts))) else periodDefault

/-- I2: `dead_counts`, the rounded number of ticks in the deadtime, clamped to half of the period just computed;
0 where the positive test fails (41_pwm_generator.md R70; 60_exceptions.md R101 A2, A3, R103). -/
def deadCounts (P : Params) (period : Int) : Int :=
  if 0 < P.deadtime_s ∧ 0 < P.Ts then clamp (round (P.deadtime_s / P.Ts)) 0 (div2 period) else 0

/-- PWM.INIT(Ts, fsw, deadtime_s) (41_pwm_generator.md R70): reads no state and writes all five fields. -/
def pwmInit (P : Params) : PwmGen :=
  { period_counts := periodCounts P
    dead_counts   := deadCounts P (periodCounts P)
    cnt           := 0
    last_raw_u    := 0#1
    dt_counter    := 0 }

/-- S1: the defensive re-floor of period_counts; dead_counts and cnt are not re-validated
(41_pwm_generator.md R73, R85). -/
def refloor (g : PwmGen) : PwmGen :=
  if g.period_counts < 2 then { g with period_counts := 2 } else g

/-- S2: `on_counts`, the floor of duty times the period, clamped to [0, period_counts]
(41_pwm_generator.md R73, R74). -/
def onCounts (period : Int) (duty : NUM) : Int := clamp (floor (duty * (period : NUM))) 0 period

/-- S4b: a blanked tick: both gates off, one tick of the window used up. -/
def blank (g : PwmGen) : PwmGen × Gates := ({ g with dt_counter := g.dt_counter - 1 }, ⟨0#1, 0#1⟩)

/-- S4c and S5: the raw complementary pair. -/
def emitRaw (raw : BIT) : Gates := ⟨raw, rawLow raw⟩

/-- S4, deadtime insertion enabled: arm on an edge (S4a), then blank while the armed counter is positive (S4b)
or emit the raw pair (S4c), then latch the raw gate (S4d) (41_pwm_generator.md R73). -/
def driveWithDeadtime (g : PwmGen) (raw : BIT) : PwmGen × Gates :=
  let a := { g with dt_counter := armed g raw }
  if 0 < a.dt_counter then (latchRaw (blank a).1 raw, (blank a).2) else (latchRaw a raw, emitRaw raw)

/-- S4 or S5, by dead_counts > 0; S5 is the else of S4, so that a negative dead_counts, which no operation
produces, takes it too (41_pwm_generator.md R73; the spec's choice D25, log 15). -/
def drive (g : PwmGen) (raw : BIT) : PwmGen × Gates :=
  if 0 < g.dead_counts then driveWithDeadtime g raw else (g, emitRaw raw)

/-- S6: advance the counter, wrapping to 0 at period_counts (41_pwm_generator.md R73, R75). -/
def advance (g : PwmGen) : PwmGen :=
  if g.cnt + 1 ≥ g.period_counts then { g with cnt := 0 } else { g with cnt := g.cnt + 1 }

/-- `raw_high` of the tick that starts in g with this duty: S1, S2 and S3. -/
def rawOf (g : PwmGen) (duty : NUM) : BIT :=
  rawHigh (refloor g).cnt (onCounts (refloor g).period_counts duty)

/-- PWM.STEP(duty) → (gate_high, gate_low) (41_pwm_generator.md R73). -/
def pwmStep (g : PwmGen) (duty : NUM) : PwmGen × Gates :=
  let d := drive (refloor g) (rawOf g duty)
  (advance d.1, d.2)

end Sys2Proof.Machine
end

