-- ==== Sys2Proof/Machine/State.lean ====
section
/-! DEFINITION. The state of the machine, the reasons a step can stop, and the state after reset. -/

namespace Sys2Proof.Machine

/-- The whole machine: one instance `(P, S)` of the block (60_exceptions.md R108) and what its host has issued
to it and received from it. -/
structure State where
  /-- The Parameter Set, constant: no operation writes it (10_state.md R25; log 6). -/
  P : Params
  /-- W_CNT: none for unbounded counters, `some w` for counters of w bits; constant (00_scope.md R8; log 2). -/
  wCnt : Option Nat
  /-- The six state fields; none before the first INIT, when they hold no value (10_state.md R20, R33; log 8). -/
  regs : Option Regs
  /-- The model's own field: the commands the host has issued and the block has not yet taken, oldest first
  (20_memory.md R47; log 12). -/
  pending : List Command
  /-- The model's own field: the STEP responses the host has received, oldest first, the only observation
  (70_reset_and_hazards.md R131; log 13). -/
  responses : List Response
deriving DecidableEq, Repr

/-- The block raises no exception and has no fault outcome (60_exceptions.md R100, 00_scope.md R16): no
constructor, so nothing raises one. -/
inductive Fault where
deriving DecidableEq, Repr

/-- Why the model gives a command no meaning: the closed list of 60_exceptions.md R105, and the constructor the
host's interface asks for. Every refusal errs toward unprovable. -/
inductive Refusal where
  /-- Raised by a dispatch arm whose instruction has no meaning yet; no arm raises it now. Safe. -/
  | notModelled (mnemonic : String)
  /-- Raised by STEP when no INIT has been issued since power-on: the fields hold no value
  (60_exceptions.md R105; log 8). Safe. -/
  | stepBeforeInit
  /-- Raised by the step on a word whose code is the reserved `00` (30_encoding.md R54; log 9). Safe. -/
  | reservedOp
  /-- Raised by INIT in an instance with a finite W_CNT whose period_counts exceeds `2^W_CNT - 1`
  (00_scope.md R8; log 2). Safe. -/
  | counterWidth
deriving DecidableEq, Repr

/-- The six fields as the architectural reset, INIT, leaves them: CTRL.INIT and PWM.INIT, which write disjoint
fields and read no state (10_state.md R32, 42_lifecycle.md R90, 70_reset_and_hazards.md R120). -/
def Regs.initial (P : Params) : Regs := ⟨ctrlInit, pwmInit P⟩

/-- The machine right after its architectural reset, which is the INIT operation (70_reset_and_hazards.md R120,
10_state.md R32; log 7). Its Parameter Set is the free value of log 6, its counters are unbounded, and its host
has issued nothing more. -/
def State.reset : State :=
  { P         := Config.params
    wCnt      := none
    regs      := some (Regs.initial Config.params)
    pending   := []
    responses := [] }

/-- Power-on, the launch state of a run: no field holds a value (10_state.md R33, 70_reset_and_hazards.md R121,
R131). -/
def State.powerOn (P : Params) (wCnt : Option Nat) : State :=
  { P         := P
    wCnt      := wCnt
    regs      := none
    pending   := []
    responses := [] }

end Sys2Proof.Machine
end

