-- ==== Sys2Proof/Machine/Ops.lean ====
section
/-! DEFINITION. The named operations over the state that the meanings and the step share. The block raises no exception
and has no trap, no return and no memory (60_exceptions.md R100, R104, 20_memory.md R40), so there is no operation that
takes an exception and none that reads or writes a byte. -/

namespace Sys2Proof.Machine

/-- Write the six fields; nothing else changes. -/
def State.setRegs (s : State) (r : Regs) : State := { s with regs := some r }

/-- Hand a STEP response to the host: it is added after the earlier ones. -/
def State.respond (s : State) (o : Response) : State := { s with responses := s.responses ++ [o] }

/-- Replace the commands that wait. -/
def State.setPending (s : State) (cs : List Command) : State := { s with pending := cs }

/-- The oldest command that waits, and the state in which the block has taken it; none when the host has issued
nothing more (20_memory.md R47, 70_reset_and_hazards.md R130). -/
def fetch (s : State) : Option (Command × State) :=
  match s.pending with
  | [] => none
  | c :: rest => some (c, s.setPending rest)

/-- A count fits the counters: always when they are unbounded, and `n ≤ 2^w - 1` when they have w bits
(00_scope.md R8). -/
def fitsWidth (wCnt : Option Nat) (n : Int) : Bool :=
  match wCnt with
  | none => true
  | some w => decide (n ≤ 2 ^ w - 1)

end Sys2Proof.Machine
end

