-- ==== Sys2Proof/Machine/Lifecycle.lean ====
section
/-! DEFINITION. The meanings of the three host operations INIT, STEP and TERM (42_lifecycle.md R90, R91, R92). -/

namespace Sys2Proof.Machine

/-- INIT (42_lifecycle.md R90): accepted in every state and reading none of the six fields, it writes them all as
10_state.md R32 says. It is refused only where the counters have a finite width that period_counts does not fit
(60_exceptions.md R105 CounterWidth, 90_conflicts.md C13). -/
def execInit (s : State) : Host.Outcome State Fault Refusal :=
  if fitsWidth s.wCnt (periodCounts s.P) then .next (s.setRegs (Regs.initial s.P))
  else .refused .counterWidth

/-- The two components within one STEP: the Controller first, then the PWM Generator with the duty computed in
this same STEP (42_lifecycle.md R91): the fields after it, and the gate bits. -/
def tick (P : Params) (r : Regs) (v : NUM) : Regs × Gates :=
  let c := ctrlStep P r.ctrl v
  let g := pwmStep r.pwm c.2
  (⟨c.1, g.1⟩, g.2)

/-- STEP (42_lifecycle.md R91): one tick on the measured output voltage `in[2]`, answered with the two gate bits.
Before the first INIT the fields hold no value and the model refuses (60_exceptions.md R105 StepBeforeInit). -/
def execStep (in0 in1 in2 in3 : NUM) (s : State) : Host.Outcome State Fault Refusal :=
  match s.regs with
  | none => .refused .stepBeforeInit
  | some r =>
    let t := tick s.P r (measuredVout (inVector in0 in1 in2 in3))
    .next ((s.setRegs t.1).respond (outVector t.2))

/-- TERM (42_lifecycle.md R92): "no-op"; it reads nothing, writes nothing and answers nothing, in every state. -/
def execTerm (s : State) : Host.Outcome State Fault Refusal := .next s

end Sys2Proof.Machine
end

