-- ==== Sys2Proof/Machine/Dispatch.lean ====
section
/-! DEFINITION. One arm per instruction, each one call of its meaning. -/

namespace Sys2Proof.Machine

def exec (i : Instr) (s : State) : Host.Outcome State Fault Refusal :=
  match i with
  | .init => Sys2Proof.Machine.execInit s
  | .step in0 in1 in2 in3 => Sys2Proof.Machine.execStep in0 in1 in2 in3 s
  | .term => Sys2Proof.Machine.execTerm s

end Sys2Proof.Machine
end

