-- ==== Sys2Proof/Machine/Step.lean ====
section
/-! DEFINITION. One step of the machine: the block takes the oldest command its host has issued and runs it whole. -/

namespace Sys2Proof.Machine

/-- One command, one atomic transition (00_scope.md R17, 20_memory.md R45, R47). Where no command waits the block
does nothing of its own, so the state stands as it is (00_scope.md R17; log 12). A word with the reserved code
is refused by name (30_encoding.md R54). -/
def step (s : State) : Host.Outcome State Fault Refusal :=
  match fetch s with
  | none => .next s
  | some (c, s') =>
    match decode c with
    | .instr i => exec i s'
    | .reservedOp => .refused .reservedOp

/-- The state in which the host's next command is the table's word `w` of `nbits` bits: it is issued ahead of any
that wait, and nothing else changes (log 12). -/
def State.withFetchWord (s : State) (nbits w : Nat) : State :=
  s.setPending (tableCommand nbits w :: s.pending)

end Sys2Proof.Machine
end

