-- ==== Sys2Proof/Machine/Trace.lean ====
section
/-! DEFINITION. The trace syntax of 30_encoding.md R57, R58 as data: lines, their literals, the expansion of the
pseudo-operations, and the command words a listing stands for. Machine/TraceText.lean reads a listing written as text (log 22). -/

namespace Sys2Proof.Machine

/-- A NUM literal: a decimal or a fraction, "denoting that exact decimal rational" (30_encoding.md R57). -/
inductive NumLit where
  /-- the decimal `mantissa · 10^exponent`: 0.05 is `decimal 5 (-2)`, 1e-5 is `decimal 1 (-5)` -/
  | decimal (mantissa exponent : Int)
  /-- the fraction `num/den` -/
  | fraction (num den : Int)
deriving DecidableEq, Repr

/-- The exact rational a literal denotes. -/
def NumLit.value (l : NumLit) : NUM :=
  match l with
  | .decimal m (.ofNat e) => (m : NUM) * 10 ^ e
  | .decimal m (.negSucc e) => (m : NUM) / 10 ^ (e + 1)
  | .fraction n d => (n : NUM) / (d : NUM)

/-- A fraction over 0 denotes no number; a negative denominator is allowed (DESIGN CHOICE, log 22). -/
def NumLit.wellFormed (l : NumLit) : Bool :=
  match l with
  | .decimal _ _ => true
  | .fraction _ d => d != 0

/-- A line of a listing: the three operations and the two pseudo-operations `STEPV v` and `STEPV v * n`
(30_encoding.md R57, R58). -/
inductive TraceLine where
  | init
  | step (vin iin vout iout : NumLit)
  | term
  | stepv (vout : NumLit)
  | stepvTimes (vout : NumLit) (n : Nat)
deriving DecidableEq, Repr

/-- A line is well formed when its literals denote numbers and a repeat count is positive (30_encoding.md R58). -/
def TraceLine.wellFormed (l : TraceLine) : Bool :=
  match l with
  | .init => true
  | .step a b c d => a.wellFormed && b.wellFormed && c.wellFormed && d.wellFormed
  | .term => true
  | .stepv v => v.wellFormed
  | .stepvTimes v n => v.wellFormed && n != 0

/-- `STEPV v` is `STEP 0, 0, v, 0` (30_encoding.md R58). -/
def stepVout (v : NUM) : Instr := .step 0 0 v 0

/-- The operations a line stands for (30_encoding.md R57, R58). -/
def TraceLine.expand (l : TraceLine) : List Instr :=
  match l with
  | .init => [.init]
  | .step a b c d => [.step a.value b.value c.value d.value]
  | .term => [.term]
  | .stepv v => [stepVout v.value]
  | .stepvTimes v n => List.replicate n (stepVout v.value)

/-- The command words of a listing, in order (30_encoding.md R57). -/
def assemble (ls : List TraceLine) : List Command := (ls.flatMap TraceLine.expand).map encode

/-- A run's launch state with a listing issued to it: power-on, then the listing's words wait in order
(70_reset_and_hazards.md R131). -/
def launch (P : Params) (wCnt : Option Nat) (ls : List TraceLine) : State :=
  (State.powerOn P wCnt).setPending (assemble ls)

end Sys2Proof.Machine
end

