-- ==== Sys2Proof/Safety.lean ====
section
/-! DEFINITION. What a safe run is, in the terms the claims use: the invariants of 10_state.md R31, runs of operations and of
ticks, and the named premises of 70_reset_and_hazards.md R131. -/

namespace Sys2Proof.Machine

/-- The STEP that carries an input vector (20_memory.md R41). -/
def stepOf (x : Vector NUM 4) : Instr := .step x[0] x[1] x[2] x[3]

/-- Operations run one after another in issue order, each on the whole effect of the earlier ones; the first
refusal ends the run (20_memory.md R47, 60_exceptions.md R105). -/
def runInstrs : List Instr → State → Host.Outcome State Fault Refusal
  | [], s => .next s
  | i :: is, s =>
    match exec i s with
    | .next t => runInstrs is t
    | .fault f => .fault f
    | .refused x => .refused x

/-- The PWM Generator after a sequence of ticks, one per duty. -/
def pwmRun : PwmGen → List NUM → PwmGen
  | g, [] => g
  | g, d :: ds => pwmRun (pwmStep g d).1 ds

/-- The gate bits of a sequence of ticks. -/
def pwmGates : PwmGen → List NUM → List Gates
  | _, [] => []
  | g, d :: ds => (pwmStep g d).2 :: pwmGates (pwmStep g d).1 ds

/-- `raw_high` of a sequence of ticks. -/
def pwmRaws : PwmGen → List NUM → List BIT
  | _, [] => []
  | g, d :: ds => rawOf g d :: pwmRaws (pwmStep g d).1 ds

/-- No shoot-through, and complementary unless blanked: the three responses a STEP can give
(10_state.md R31 INV6, INV7). -/
def Response.Legal (o : Response) : Prop := o = ⟨1#1, 0#1⟩ ∨ o = ⟨0#1, 1#1⟩ ∨ o = ⟨0#1, 0#1⟩

/-- INV1, INV2, INV3, INV5 and the first half of INV8 (10_state.md R31), between commands. -/
structure PwmGen.Inv (g : PwmGen) : Prop where
  period_ge : 2 ≤ g.period_counts
  dead_ge : 0 ≤ g.dead_counts
  dead_le : g.dead_counts ≤ div2 g.period_counts
  cnt_ge : 0 ≤ g.cnt
  cnt_lt : g.cnt < g.period_counts
  dt_ge : 0 ≤ g.dt_counter
  dt_le : g.dt_counter ≤ max (g.dead_counts - 1) 0
  flag_idle : g.dead_counts = 0 → g.last_raw_u = 0#1

/-- INV4 (10_state.md R31). -/
def Controller.Inv (c : Controller) : Prop := 0 ≤ c.integ ∧ c.integ ≤ 1

/-- The six fields of an instance that has been initialised: INV1 to INV5 and the first half of INV8, the two counts still those
that INIT derives from `P` (10_state.md R26, R27), and a finite width that they fit (00_scope.md R8). -/
structure Regs.Inv (P : Params) (wCnt : Option Nat) (r : Regs) : Prop where
  ctrl : r.ctrl.Inv
  pwm : r.pwm.Inv
  period_eq : r.pwm.period_counts = periodCounts P
  dead_eq : r.pwm.dead_counts = deadCounts P (periodCounts P)
  width : fitsWidth wCnt r.pwm.period_counts = true

/-- The invariant of the machine: the fields hold no value yet or meet their invariant, and every response so far
is a legal one. -/
structure State.Inv (s : State) : Prop where
  regs : ∀ r, s.regs = some r → r.Inv s.P s.wCnt
  responses : ∀ o ∈ s.responses, o.Legal

/-- A run that keeps the host's contract `INIT STEP* TERM` (42_lifecycle.md R93). -/
def contractRun (xs : List (Vector NUM 4)) : List Instr := .init :: (xs.map stepOf ++ [.term])

/-- The premise ContractHost (70_reset_and_hazards.md R131). -/
def ContractHost (is : List Instr) : Prop := ∃ xs, is = contractRun xs

/-- The premise NoRefusal (70_reset_and_hazards.md R131). -/
def NoRefusal (o : Host.Outcome State Fault Refusal) : Prop := ∃ t, o = .next t

/-- The premise ValidTiming (70_reset_and_hazards.md R131). -/
def ValidTiming (P : Params) : Prop := 0 < P.Ts ∧ 0 < P.fsw

/-- The premise DeadtimeOn (70_reset_and_hazards.md R131). -/
def DeadtimeOn (P : Params) : Prop := 0 < deadCounts P (periodCounts P)

/-- The premise FitsWidth (70_reset_and_hazards.md R131). -/
def FitsWidth (wCnt : Option Nat) (P : Params) : Prop := fitsWidth wCnt (periodCounts P) = true

end Sys2Proof.Machine
end

