-- ==== Sys2Proof/Certificates/Slice0/Obligations.lean ====
section
/-! DEFINITION. The statements about the machine, each from the spec's rules. A new register value is written out in the
library's own floor, max and min, not in the model's functions, wherever a rule gives it. -/

open Sys2Proof Sys2Proof.Machine

/-! ## The command port -/

/-- 30_encoding.md R51, R54: the words written out bit by bit. The codes are the spec's choice D9 (log 9). -/
def Obligations.WrittenWordsDecode : Prop :=
  (∀ a b v d : NUM, decode ⟨0b01#2, a, b, v, d⟩ = .instr .init) ∧
  (∀ a b v d : NUM, decode ⟨0b10#2, a, b, v, d⟩ = .instr (.step a b v d)) ∧
  (∀ a b v d : NUM, decode ⟨0b11#2, a, b, v, d⟩ = .instr .term) ∧
  (∀ a b v d : NUM, decode ⟨0b00#2, a, b, v, d⟩ = .reservedOp)

/-- 30_encoding.md R51, R52, R53, R55: the encoder and the decoder agree in both directions, with every operand at
every value, and decoding rejects exactly the reserved code. The codes are the spec's choice D9 (log 9). -/
def Obligations.DecodeAndEncodeAgree : Prop :=
  (∀ i : Instr, decode (encode i) = .instr i) ∧
  (∀ (c : Command) (i : Instr), decode c = .instr i →
    (encode i).op = c.op ∧ (c.op = 0b10#2 → encode i = c)) ∧
  (∀ c : Command, decode c = .reservedOp ↔ c.op = 0b00#2) ∧
  (∀ c : Command, c.wellFormed = true ↔ ∃ i, decode c = .instr i) ∧
  (∀ c c' : Command, c.op = c'.op → c.op ≠ 0b10#2 → decode c = decode c')

/-- 00_scope.md R17, 20_memory.md R47: a step takes the oldest command that waits and is `exec` of the instruction
it decodes to, in the state without that command; a reserved word is refused; with no command the state stands
(the model's reading of "never takes a step of its own", log 12). -/
def Obligations.StepRunsDecodedCommand : Prop :=
  (∀ (s : State) (c : Command) (rest : List Command) (i : Instr),
    s.pending = c :: rest → decode c = .instr i → step s = exec i { s with pending := rest }) ∧
  (∀ (s : State) (c : Command) (rest : List Command),
    s.pending = c :: rest → decode c = .reservedOp → step s = .refused .reservedOp) ∧
  (∀ s : State, s.pending = [] → step s = .next s)

/-- 20_memory.md R45, R47, 00_scope.md R17: issued through the command port, a sequence of operations runs whole, one
at a time and in issue order, exactly as the operations themselves do, and stops at the first refusal. That issued
commands wait in the list `pending` is the model's own choice (log 12). -/
def Obligations.PortRunsOperationsInIssueOrder : Prop :=
  ∀ (is : List Instr) (s : State), s.pending = [] →
    Host.Core.run Sys2Proof.core is.length { s with pending := is.map encode } = runInstrs is s

/-! ## INIT -/

/-- 10_state.md R32, 42_lifecycle.md R90, 41_pwm_generator.md R70: INIT completes in every state of an instance whose
counters, unbounded or of a finite width, fit its period_counts (log 2), and leaves the six fields as the reset table
gives them; nothing else changes. A tie of round goes up (the spec's choice D4, log 4) and the half of a period is
rounded down (D5, log 5). -/
def Obligations.InitWritesResetTable : Prop :=
  ∀ s : State, FitsWidth s.wCnt s.P →
    let period : Int :=
      if 0 < s.P.Ts ∧ 0 < s.P.fsw then max 2 ⌊1 / (s.P.fsw * s.P.Ts) + 1 / 2⌋ else 100
    let dead : Int :=
      if 0 < s.P.deadtime_s ∧ 0 < s.P.Ts then min ⌊s.P.deadtime_s / s.P.Ts + 1 / 2⌋ (period / 2) else 0
    exec .init s = .next { s with
      regs := some
        { ctrl := { integ := 0 }
          pwm := { period_counts := period, dead_counts := dead, cnt := 0, last_raw_u := 0#1, dt_counter := 0 } } }

/-- 41_pwm_generator.md R71, R72, 60_exceptions.md R101 A1 to A4: wherever INIT completes, the two counts are in
range, and a degenerate configuration is absorbed by the stated defaults. That the cap on dead_counts is the half of an odd
period_counts rounded down is the spec's choice D5 (log 5). -/
def Obligations.InitAbsorbsDegenerateConfiguration : Prop :=
  ∀ s : State, FitsWidth s.wCnt s.P →
    ∃ r, exec .init s = .next { s with regs := some r } ∧
      2 ≤ r.pwm.period_counts ∧ 0 ≤ r.pwm.dead_counts ∧ 2 * r.pwm.dead_counts ≤ r.pwm.period_counts ∧
      (s.P.Ts ≤ 0 ∨ s.P.fsw ≤ 0 → r.pwm.period_counts = 100) ∧
      (s.P.Ts ≤ 0 ∨ s.P.deadtime_s ≤ 0 → r.pwm.dead_counts = 0)

/-- 70_reset_and_hazards.md R129, 41_pwm_generator.md R70, R71, R72: with valid timing the PWM period of period_counts ticks
of Ts is exactly 1/fsw only when 1/(fsw*Ts) is an integer of at least 2; and with a positive deadtime_s and Ts, whatever
fsw is (the default period included), the deadtime of dead_counts ticks is exactly deadtime_s only when deadtime_s/Ts
is an integer within the cap. The cap on an odd period rests on the spec's choice D5 (log 5). -/
def Obligations.NominalTimingIsExactOnlyOnWholeTicks : Prop :=
  ∀ P : Params,
    (ValidTiming P →
      ((periodCounts P : NUM) * P.Ts = 1 / P.fsw ↔ ∃ n : Int, 2 ≤ n ∧ 1 / (P.fsw * P.Ts) = n)) ∧
    (0 < P.Ts → 0 < P.deadtime_s →
      ((deadCounts P (periodCounts P) : NUM) * P.Ts = P.deadtime_s ↔
        ∃ n : Int, 2 * n ≤ periodCounts P ∧ P.deadtime_s / P.Ts = n))

/-- 70_reset_and_hazards.md R131, R128: deadtime is on after INIT exactly when deadtime_s and Ts are positive and
their quotient is at least 1/2. At exactly 1/2 it rests on the spec's tie rule D4 (log 4). -/
def Obligations.DeadtimeOnExactlyFromHalfTick : Prop :=
  ∀ P : Params, DeadtimeOn P ↔ 0 < P.deadtime_s ∧ 0 < P.Ts ∧ 1 / 2 ≤ P.deadtime_s / P.Ts

/-- 00_scope.md R8, 60_exceptions.md R105: with counters of w bits INIT is refused exactly when its period_counts
exceeds `2^w - 1`, and otherwise completes with the period_counts of 41_pwm_generator.md R70. The refusal is the spec's
choice D6 (log 2); that a tie of round goes up in period_counts is its choice D4 (00_scope.md R12, log 4). -/
def Obligations.InitRefusedExactlyWhenTooWide : Prop :=
  ∀ (s : State) (w : Nat), s.wCnt = some w →
    let period : Int :=
      if 0 < s.P.Ts ∧ 0 < s.P.fsw then max 2 ⌊1 / (s.P.fsw * s.P.Ts) + 1 / 2⌋ else 100
    (2 ^ w - 1 < period → exec .init s = .refused .counterWidth) ∧
    (period ≤ 2 ^ w - 1 →
      ∃ r, exec .init s = .next { s with regs := some r } ∧ r.pwm.period_counts = period)

/-- 42_lifecycle.md R90, 20_memory.md R46: whatever operations ran since, another INIT is accepted and leaves the
same six fields as the first; the responses already received stand. (The spec's choice D13, log 14.) -/
def Obligations.ReinitDiscardsHistory : Prop :=
  ∀ (is : List Instr) (s t : State), FitsWidth s.wCnt s.P → runInstrs is s = .next t →
    ∃ r, exec .init s = .next { s with regs := some r } ∧ exec .init t = .next { t with regs := some r }

/-- 00_scope.md R12: round gives an integer at distance at most 1/2; at a tie it gives the one farther from zero, and
it treats the two signs alike. The tie rule is the spec's choice D4 (log 4). -/
def Obligations.RoundIsNearestTiesAway : Prop :=
  ∀ x : NUM, |x - Machine.round x| ≤ 1 / 2 ∧
    (∀ n : Int, |x - n| = 1 / 2 → |(n : NUM)| ≤ |(Machine.round x : NUM)|) ∧
    Machine.round (-x) = -Machine.round x

/-- 70_reset_and_hazards.md R120, 10_state.md R32: the model's State.reset is what INIT, the architectural reset,
makes of power-on (log 7). -/
def Obligations.ResetIsInitFromPowerOn : Prop :=
  exec .init (State.powerOn Config.params none) = .next State.reset

/-! ## STEP -/

/-- 42_lifecycle.md R91, 40_controller.md R61, 41_pwm_generator.md R73 with deadtime off (S5): STEP completes in every
state whose fields hold values, whatever the values, and this is its whole effect. -/
def Obligations.StepResultWithoutDeadtime : Prop :=
  ∀ (s : State) (r : Regs) (vin iin v iout : NUM), s.regs = some r → r.pwm.dead_counts ≤ 0 →
    let e : NUM := s.P.Vref - v
    let integ : NUM := max 0 (min 1 (r.ctrl.integ + s.P.Ki * s.P.Ts * e))
    let duty : NUM := max (1 / 50) (min (49 / 50) (s.P.Kp * e + integ))
    let period : Int := max 2 r.pwm.period_counts
    let raw : BIT := if r.pwm.cnt < ⌊duty * period⌋ then 1#1 else 0#1
    exec (.step vin iin v iout) s = .next { s with
      regs := some
        { ctrl := { integ := integ }
          pwm := { r.pwm with
            period_counts := period
            cnt := if period ≤ r.pwm.cnt + 1 then 0 else r.pwm.cnt + 1 } }
      responses := s.responses ++ [{ out0 := raw, out1 := 1#1 - raw }] }

/-- 42_lifecycle.md R91, 40_controller.md R61, 41_pwm_generator.md R73 with deadtime on (S4a to S4d): STEP completes in
every state whose fields hold values, and this is its whole effect: an edge arms the blanking counter, a positive
armed counter blanks the tick and is used up by one, and the raw gate is latched on either arm. -/
def Obligations.StepResultWithDeadtime : Prop :=
  ∀ (s : State) (r : Regs) (vin iin v iout : NUM), s.regs = some r → 0 < r.pwm.dead_counts →
    let e : NUM := s.P.Vref - v
    let integ : NUM := max 0 (min 1 (r.ctrl.integ + s.P.Ki * s.P.Ts * e))
    let duty : NUM := max (1 / 50) (min (49 / 50) (s.P.Kp * e + integ))
    let period : Int := max 2 r.pwm.period_counts
    let raw : BIT := if r.pwm.cnt < ⌊duty * period⌋ then 1#1 else 0#1
    let arm : Int := if raw = r.pwm.last_raw_u then r.pwm.dt_counter else r.pwm.dead_counts
    exec (.step vin iin v iout) s = .next { s with
      regs := some
        { ctrl := { integ := integ }
          pwm :=
            { period_counts := period
              dead_counts := r.pwm.dead_counts
              cnt := if period ≤ r.pwm.cnt + 1 then 0 else r.pwm.cnt + 1
              last_raw_u := raw
              dt_counter := if 0 < arm then arm - 1 else arm } }
      responses := s.responses ++
        [if 0 < arm then { out0 := 0#1, out1 := 0#1 } else { out0 := raw, out1 := 1#1 - raw }] }

/-- 40_controller.md R61: CTRL.STEP, for every parameter set, prior integ and input: the integrator is clamped to [0, 1],
and the duty, taken from the new integrator, to [1/50, 49/50]. -/
def Obligations.CtrlStepIsClampedPiLaw : Prop :=
  ∀ (P : Params) (c : Controller) (v : NUM),
    let error : NUM := P.Vref - v
    let integ : NUM := max 0 (min 1 (c.integ + P.Ki * P.Ts * error))
    ctrlStep P c v = ({ integ := integ }, max (1 / 50) (min (49 / 50) (P.Kp * error + integ)))

/-- 41_pwm_generator.md R73: PWM.STEP, for every state and every duty, reachable or not: S1 re-floors the period, S2
floors and clamps on_counts, S3 compares, S4 arms, blanks or emits, and latches, or S5 emits, and S6 advances. For a
negative dead_counts S5 is taken as the else of S4, the spec's choice D25 (log 15). -/
def Obligations.PwmStepTransition : Prop :=
  ∀ (g : PwmGen) (duty : NUM),
    let period : Int := max 2 g.period_counts
    let onc : Int := max 0 (min period ⌊duty * period⌋)
    let raw : BIT := if g.cnt < onc then 1#1 else 0#1
    let cnt : Int := if period ≤ g.cnt + 1 then 0 else g.cnt + 1
    let arm : Int := if raw = g.last_raw_u then g.dt_counter else g.dead_counts
    pwmStep g duty =
      if g.dead_counts ≤ 0 then
        ({ g with period_counts := period, cnt := cnt }, { gate_high := raw, gate_low := 1#1 - raw })
      else if 0 < arm then
        ({ g with period_counts := period, cnt := cnt, last_raw_u := raw, dt_counter := arm - 1 },
          { gate_high := 0#1, gate_low := 0#1 })
      else
        ({ g with period_counts := period, cnt := cnt, last_raw_u := raw, dt_counter := arm },
          { gate_high := raw, gate_low := 1#1 - raw })

/-- 42_lifecycle.md R91, R95, 20_memory.md R42, 10_state.md R34: the response of a STEP and the fields after it are the
same for all states with the same parameters and fields and for all values of Vin, Iin and Iout. -/
def Obligations.StepReadsOnlyFieldsAndVout : Prop :=
  ∀ (s s' : State) (r : Regs) (a b d a' b' d' v : NUM), s.P = s'.P → s.regs = some r → s'.regs = some r →
    ∃ r' o, exec (.step a b v d) s = .next { s with regs := some r', responses := s.responses ++ [o] } ∧
      exec (.step a' b' v d') s' = .next { s' with regs := some r', responses := s'.responses ++ [o] }

/-- 40_controller.md R66: the Controller's part of a STEP depends only on Vref, Ki, Ts, Kp, the prior integ and v: two
instances that agree on these hold the same integ after it and compute the same duty, whatever the other two
parameters and the PWM Generator's five fields are. It writes none of those five: PWM.STEP finds them as they were. -/
def Obligations.ControllerReadsNothingOfPwm : Prop :=
  ∀ (s s' : State) (r r' : Regs) (a b d v : NUM), s.regs = some r → s'.regs = some r' →
    s.P.Vref = s'.P.Vref → s.P.Ki = s'.P.Ki → s.P.Ts = s'.P.Ts → s.P.Kp = s'.P.Kp → r.ctrl = r'.ctrl →
    ctrlStep s.P r.ctrl v = ctrlStep s'.P r'.ctrl v ∧
    ∃ t t' q q', exec (.step a b v d) s = .next t ∧ exec (.step a b v d) s' = .next t' ∧
      t.regs = some q ∧ t'.regs = some q' ∧ q.ctrl = q'.ctrl ∧ q.ctrl = (ctrlStep s.P r.ctrl v).1 ∧
      q.pwm = (pwmStep r.pwm (ctrlStep s.P r.ctrl v).2).1 ∧ q'.pwm = (pwmStep r'.pwm (ctrlStep s.P r.ctrl v).2).1

/-- 40_controller.md R62: for all sequences of inputs and from every fields whatever, integ is in [0, 1] after every
STEP; and it is 0 after INIT. -/
def Obligations.IntegratorStaysClamped : Prop :=
  (∀ (s : State) (r : Regs) (xs : List (Vector NUM 4)), s.regs = some r → xs ≠ [] →
    ∃ t q, runInstrs (xs.map stepOf) s = .next t ∧ t.regs = some q ∧ 0 ≤ q.ctrl.integ ∧ q.ctrl.integ ≤ 1) ∧
  (∀ s : State, FitsWidth s.wCnt s.P →
    ∃ t q, exec .init s = .next t ∧ t.regs = some q ∧ q.ctrl.integ = 0)

/-- 40_controller.md R63: the duty that CTRL.STEP returns is in [1/50, 49/50], for every parameter set, every prior
integ and every input. -/
def Obligations.DutyStaysClamped : Prop :=
  ∀ (P : Params) (c : Controller) (v : NUM), 1 / 50 ≤ (ctrlStep P c v).2 ∧ (ctrlStep P c v).2 ≤ 49 / 50

/-- 40_controller.md R64: with v at Vref, from a prior integ in [0, 1], CTRL.STEP leaves integ unchanged and returns
`clamp(integ, 1/50, 49/50)`, from the first such step on and at every later one. -/
def Obligations.SteadyStateHoldsFromFirstStep : Prop :=
  ∀ (P : Params) (c : Controller) (n : Nat), 0 ≤ c.integ → c.integ ≤ 1 →
    (fun k : Controller => (ctrlStep P k P.Vref).1)^[n] c = c ∧
    ∀ k : Controller, (fun k : Controller => (ctrlStep P k P.Vref).1)^[n] c = k →
      (ctrlStep P k P.Vref).2 = max (1 / 50) (min (49 / 50) c.integ)

/-- 41_pwm_generator.md R82: each PWM.STEP response is either (0, 0) or (raw_high, 1 - raw_high), so none is (1, 1), for
any state and any duty. -/
def Obligations.NoShootThrough : Prop :=
  ∀ (g : PwmGen) (duty : NUM),
    ((pwmStep g duty).2 = { gate_high := 0#1, gate_low := 0#1 } ∨
      (pwmStep g duty).2 = { gate_high := rawOf g duty, gate_low := 1#1 - rawOf g duty }) ∧
    ¬((pwmStep g duty).2.gate_high = 1#1 ∧ (pwmStep g duty).2.gate_low = 1#1)

/-- 41_pwm_generator.md R76, 90_conflicts.md C1: with dt_counter read at S4b (after arming, before the decrement) the
two gates sum to 1.0 exactly on the ticks that are not blanked, and both are 0 on those that are; with deadtime off
they always sum to 1.0. For a negative dead_counts, which no operation produces, the raw emission is the spec's choice
D25 (41_pwm_generator.md R73, log 15). -/
def Obligations.ComplementaryUnlessBlanked : Prop :=
  ∀ (g : PwmGen) (duty : NUM),
    let arm : Int := if rawOf g duty = g.last_raw_u then g.dt_counter else g.dead_counts
    let out : Gates := (pwmStep g duty).2
    (g.dead_counts ≤ 0 ∨ arm ≤ 0 → real out.gate_high + real out.gate_low = 1) ∧
    (0 < g.dead_counts → 0 < arm → out = { gate_high := 0#1, gate_low := 0#1 })

/-- 41_pwm_generator.md R74, 70_reset_and_hazards.md R128: with a duty of the Controller's range on_counts is the plain
floor, leaves at least one tick off in every period, is 0 when the duty is below one count, and realises a duty at
most one count below the commanded one. -/
def Obligations.OnCountsRange : Prop :=
  ∀ (period : Int) (duty : NUM), 2 ≤ period → 1 / 50 ≤ duty → duty ≤ 49 / 50 →
    onCounts period duty = ⌊duty * period⌋ ∧
    0 ≤ onCounts period duty ∧ onCounts period duty ≤ period - 1 ∧
    (duty * period < 1 → onCounts period duty = 0) ∧
    (onCounts period duty : NUM) / period ≤ duty ∧ duty < (onCounts period duty + 1 : NUM) / period

/-- 41_pwm_generator.md R85, 93_implementation_defined.md U7: a tick leaves period_counts alone unless it is below 2,
and then makes it 2; it never writes dead_counts; with deadtime off it writes neither last_raw_u nor dt_counter
(10_state.md R23, R24). For a negative dead_counts this is the spec's choice D25 (log 15). -/
def Obligations.TickFrame : Prop :=
  ∀ (g : PwmGen) (duty : NUM),
    (2 ≤ g.period_counts → (pwmStep g duty).1.period_counts = g.period_counts) ∧
    (g.period_counts < 2 → (pwmStep g duty).1.period_counts = 2) ∧
    (pwmStep g duty).1.dead_counts = g.dead_counts ∧
    (g.dead_counts ≤ 0 →
      (pwmStep g duty).1.last_raw_u = g.last_raw_u ∧ (pwmStep g duty).1.dt_counter = g.dt_counter)

/-- 10_state.md R20, R25, R26, R27, 42_lifecycle.md R90 to R92: what an operation leaves unchanged when it completes:
the parameters, the width and the waiting commands always; the responses but for the one a STEP adds; dead_counts
under STEP; every field under TERM. That a negative dead_counts counts as deadtime off is the spec's choice D25
(log 15). -/
def Obligations.OperationFrame : Prop :=
  ∀ (i : Instr) (s t : State), exec i s = .next t →
    t.P = s.P ∧ t.wCnt = s.wCnt ∧ t.pending = s.pending ∧
    (i = .init → t.responses = s.responses) ∧
    (i = .term → t.responses = s.responses ∧ t.regs = s.regs) ∧
    (∀ a b v d, i = .step a b v d →
      (∃ o, t.responses = s.responses ++ [o]) ∧
      ∃ r q, s.regs = some r ∧ t.regs = some q ∧ q.pwm.dead_counts = r.pwm.dead_counts ∧
        (2 ≤ r.pwm.period_counts → q.pwm.period_counts = r.pwm.period_counts) ∧
        (r.pwm.dead_counts ≤ 0 →
          q.pwm.last_raw_u = r.pwm.last_raw_u ∧ q.pwm.dt_counter = r.pwm.dt_counter))

/-! ## TERM -/

/-- 42_lifecycle.md R92: TERM completes in every state, before the first INIT too, and changes nothing. -/
def Obligations.TermChangesNothing : Prop :=
  ∀ s : State, exec .term s = .next s

/-- 42_lifecycle.md R92, R93: a TERM anywhere in a sequence of operations leaves no trace: what the sequence answers,
a refusal included, is what it answers without it. (The spec's choice D14, log 14.) -/
def Obligations.TermLeavesNoTrace : Prop :=
  ∀ (as bs : List Instr) (s : State), runInstrs (as ++ .term :: bs) s = runInstrs (as ++ bs) s

/-! ## Sequences of ticks -/

/-- 41_pwm_generator.md R75: the counter after INIT and k STEPs is `k mod period_counts`, whatever the inputs. -/
def Obligations.CounterFollowsTicks : Prop :=
  ∀ (s : State) (xs : List (Vector NUM 4)), FitsWidth s.wCnt s.P →
    ∃ t q, runInstrs (.init :: xs.map stepOf) s = .next t ∧ t.regs = some q ∧
      q.pwm.period_counts = periodCounts s.P ∧ q.pwm.cnt = (xs.length : Int) % q.pwm.period_counts

/-- 41_pwm_generator.md R75, R83: the carrier does not depend on the inputs: from any fields whatever, two input
sequences of one length leave the same cnt, period_counts and dead_counts. -/
def Obligations.CarrierIndependentOfInputs : Prop :=
  ∀ (s : State) (r : Regs) (xs ys : List (Vector NUM 4)), s.regs = some r → xs.length = ys.length →
    ∃ t u q p, runInstrs (xs.map stepOf) s = .next t ∧ runInstrs (ys.map stepOf) s = .next u ∧
      t.regs = some q ∧ u.regs = some p ∧ q.pwm.cnt = p.pwm.cnt ∧
      q.pwm.period_counts = p.pwm.period_counts ∧ q.pwm.dead_counts = p.pwm.dead_counts

/-- 41_pwm_generator.md R75: over any run of period_counts ticks with constant duty in [0, 1], started at any point of
the period, the number of ticks with raw_high = 1 is `floor(duty * period_counts)`. -/
def Obligations.RawOnTicksPerPeriod : Prop :=
  ∀ (g : PwmGen) (duty : NUM), 2 ≤ g.period_counts → 0 ≤ g.cnt → g.cnt < g.period_counts →
    0 ≤ duty → duty ≤ 1 →
    ((pwmRaws g (List.replicate g.period_counts.toNat duty)).count 1#1 : Int) = ⌊duty * g.period_counts⌋

/-- 41_pwm_generator.md R77: when the raw gate of a tick differs from that of the tick before it, or on the first tick
after INIT from 0, that tick and the `dead_counts - 1` ticks after it answer (0, 0), whatever their duties. -/
def Obligations.EveryEdgeOpensBlankingWindow : Prop :=
  (∀ (g : PwmGen) (before now : NUM) (later : List NUM), 0 < g.dead_counts →
    rawOf (pwmStep g before).1 now ≠ rawOf g before → (later.length : Int) < g.dead_counts →
    ∀ o ∈ pwmGates (pwmStep g before).1 (now :: later), o = { gate_high := 0#1, gate_low := 0#1 }) ∧
  (∀ (P : Params) (now : NUM) (later : List NUM), DeadtimeOn P →
    rawOf (pwmInit P) now ≠ 0#1 → (later.length : Int) < (pwmInit P).dead_counts →
    ∀ o ∈ pwmGates (pwmInit P) (now :: later), o = { gate_high := 0#1, gate_low := 0#1 })

/-- 41_pwm_generator.md R78, R84: a window ends: when no later tick is an edge, the tick `dead_counts` or more ticks after
the edge's own answers the raw complementary pair again. -/
def Obligations.BlankingWindowEnds : Prop :=
  ∀ (g : PwmGen) (now last : NUM) (later : List NUM), 0 < g.dead_counts → rawOf g now ≠ g.last_raw_u →
    (∀ b ∈ pwmRaws (pwmStep g now).1 (later ++ [last]), b = rawOf g now) →
    g.dead_counts ≤ later.length + 1 →
    (pwmGates g (now :: (later ++ [last]))).getLast? =
      some { gate_high := rawOf g now, gate_low := 1#1 - rawOf g now }

/-- 41_pwm_generator.md R79, the row D > 0 and 0 < n < P: one period of constant duty that starts at cnt = 0 with the
raw gate off answers high on the ticks D to n - 1, low on the ticks n + D to P - 1, and (0, 0) on the rest, and it
ends where the next period starts the same way. -/
def Obligations.SteadyPatternOfOnePeriod : Prop :=
  ∀ (g : PwmGen) (duty : NUM), 2 ≤ g.period_counts → 0 < g.dead_counts →
    g.dead_counts ≤ g.period_counts / 2 → g.cnt = 0 → g.last_raw_u = 0#1 →
    let n : Int := ⌊duty * g.period_counts⌋
    0 < n → n < g.period_counts →
    let ticks : List NUM := List.replicate g.period_counts.toNat duty
    pwmGates g ticks =
      (List.range g.period_counts.toNat).map (fun k : Nat =>
        if g.dead_counts ≤ k ∧ (k : Int) < n then { gate_high := 1#1, gate_low := 0#1 }
        else if n + g.dead_counts ≤ k then { gate_high := 0#1, gate_low := 1#1 }
        else { gate_high := 0#1, gate_low := 0#1 }) ∧
    (pwmRun g ticks).cnt = 0 ∧ (pwmRun g ticks).last_raw_u = 0#1 ∧
    (pwmRun g ticks).period_counts = g.period_counts ∧ (pwmRun g ticks).dead_counts = g.dead_counts

/-- 41_pwm_generator.md R79, the rows n = 0 and n = P with D > 0: at zero on_counts the low side is on throughout; at
full on_counts the first period has D blanked ticks and then high ones, and from then on every tick is high. -/
def Obligations.SteadyPatternAtExtremes : Prop :=
  ∀ (g : PwmGen) (duty : NUM), 2 ≤ g.period_counts → 0 < g.dead_counts →
    g.dead_counts ≤ g.period_counts / 2 → g.cnt = 0 → g.last_raw_u = 0#1 → g.dt_counter = 0 →
    let ticks : List NUM := List.replicate g.period_counts.toNat duty
    (duty * g.period_counts < 1 →
      pwmGates g ticks =
        List.replicate g.period_counts.toNat { gate_high := 0#1, gate_low := 1#1 } ∧ pwmRun g ticks = g) ∧
    (1 ≤ duty →
      pwmGates g ticks =
        List.replicate g.dead_counts.toNat { gate_high := 0#1, gate_low := 0#1 } ++
        List.replicate (g.period_counts - g.dead_counts).toNat { gate_high := 1#1, gate_low := 0#1 } ∧
      pwmGates (pwmRun g ticks) ticks =
        List.replicate g.period_counts.toNat { gate_high := 1#1, gate_low := 0#1 } ∧
      pwmRun (pwmRun g ticks) ticks = pwmRun g ticks)

/-- 41_pwm_generator.md R80: whenever dead_counts is 0, and so after an INIT with deadtime_s = 0 or below, Ts <= 0 or
deadtime_s/Ts < 1/2, every tick answers the raw complementary pair, and no tick is blanked. -/
def Obligations.NoDeadtimePath : Prop :=
  (∀ (g : PwmGen) (ds : List NUM), g.dead_counts = 0 →
    pwmGates g ds = (pwmRaws g ds).map (fun b => { gate_high := b, gate_low := 1#1 - b }) ∧
    ({ gate_high := 0#1, gate_low := 0#1 } : Gates) ∉ pwmGates g ds) ∧
  (∀ P : Params, P.deadtime_s ≤ 0 ∨ P.Ts ≤ 0 ∨ P.deadtime_s / P.Ts < 1 / 2 → (pwmInit P).dead_counts = 0)

/-- 41_pwm_generator.md R81: the first STEP after INIT: a positive on_counts is an edge against the reset value of
last_raw_u, so with deadtime on the tick is blanked; a zero on_counts answers (0, 1). -/
def Obligations.FirstTickAfterInit : Prop :=
  ∀ (s : State) (a b v d : NUM), FitsWidth s.wCnt s.P →
    let duty : NUM := (ctrlStep s.P ctrlInit v).2
    ∃ t o, runInstrs [.init, .step a b v d] s = .next t ∧ t.responses = s.responses ++ [o] ∧
      (DeadtimeOn s.P → 1 ≤ duty * periodCounts s.P → o = { out0 := 0#1, out1 := 0#1 }) ∧
      (duty * periodCounts s.P < 1 → o = { out0 := 0#1, out1 := 1#1 })

/-! ## The whole machine -/

/-- 10_state.md R31, R26, R27: every step of every state that meets the invariant keeps it: INV1 to INV4 and INV6, INV5
between commands, the three response pairs of INV7, and the first half of INV8. What R31 says of the inside of one STEP
(the rest of INV5, INV7 and INV8) is `StepKeepsInsideHalves`. -/
def Obligations.EveryStepKeepsInvariant : Prop :=
  ∀ s t : State, s.Inv → step s = .next t → t.Inv

/-- 10_state.md R31, R32, R33: the invariant holds right after reset, whatever the Parameter Set of log 6, and at
power-on, where no field holds a value, for every parameter set and width. -/
def Obligations.ResetAndPowerOnMeetInvariant : Prop :=
  State.reset.Inv ∧ ∀ (P : Params) (w : Option Nat), (State.powerOn P w).Inv ∧ (State.powerOn P w).regs = none

/-- 10_state.md R25, 70_reset_and_hazards.md R122, R126: no step changes a parameter, the width, or a response already
given; each takes at most the oldest waiting command and adds at most one response. -/
def Obligations.StepsNeverTouchParameters : Prop :=
  ∀ s t : State, step s = .next t →
    t.P = s.P ∧ t.wCnt = s.wCnt ∧ t.pending = s.pending.tail ∧
    (t.responses = s.responses ∨ ∃ o, t.responses = s.responses ++ [o])

/-- 60_exceptions.md R100, R105, 00_scope.md R16: a step never faults, and it is refused for exactly the three reasons of
the closed list, each exactly where the list says. -/
def Obligations.StopsAreExactlyTheClosedList : Prop :=
  ∀ s : State, (∀ f, step s ≠ .fault f) ∧
    ∀ x, step s = .refused x ↔ ∃ c rest, s.pending = c :: rest ∧
      ((x = .reservedOp ∧ c.op = 0b00#2) ∨
       (x = .stepBeforeInit ∧ c.op = 0b10#2 ∧ s.regs = none) ∨
       (x = .counterWidth ∧ c.op = 0b01#2 ∧ ∃ w, s.wCnt = some w ∧ 2 ^ w - 1 < periodCounts s.P))

/-- 00_scope.md R8: in an instance with counters of w bits whose fields meet the invariant, every stored count is a
w-bit number, so no counter ever wraps at its width. -/
def Obligations.CountersFitTheirWidth : Prop :=
  ∀ (P : Params) (w : Nat) (r : Regs), r.Inv P (some w) →
    (0 ≤ r.pwm.period_counts ∧ r.pwm.period_counts < 2 ^ w) ∧ (0 ≤ r.pwm.dead_counts ∧ r.pwm.dead_counts < 2 ^ w) ∧
    (0 ≤ r.pwm.cnt ∧ r.pwm.cnt < 2 ^ w) ∧ (0 ≤ r.pwm.dt_counter ∧ r.pwm.dt_counter < 2 ^ w)

/-- 70_reset_and_hazards.md R131, 10_state.md R31, 42_lifecycle.md R93: a host that keeps the contract is never refused:
from power-on, with any parameters that fit the counters and any inputs, `INIT STEP* TERM` issued through the
command port runs to its end, answers one legal response per STEP, and ends in fields that meet the invariant. That issued
commands wait in the list `pending` is the model's own choice (log 12). -/
def Obligations.ContractRunIsSafe : Prop :=
  ∀ (P : Params) (w : Option Nat) (is : List Instr), FitsWidth w P → ContractHost is →
    ∃ t r, Host.Core.run Sys2Proof.core is.length
        ((State.powerOn P w).setPending (is.map encode)) = .next t ∧
      t.pending = [] ∧ t.responses.length + 2 = is.length ∧ (∀ o ∈ t.responses, o.Legal) ∧
      t.regs = some r ∧ r.Inv P w

/-- 10_state.md R31, what INV5, INV7 and INV8 say of the inside of one STEP: with deadtime on, last_raw_u after it equals
its raw_high (INV8, second half); the response is (0, 0) exactly on a blanking tick and the raw complementary pair on
every other (INV7); and between arming and decrement dt_counter is in 0 to dead_counts wherever the fields meet the
invariant (INV5). For a negative dead_counts the raw emission is the spec's choice D25 (41_pwm_generator.md R73, log 15). -/
def Obligations.StepKeepsInsideHalves : Prop :=
  ∀ (s : State) (r : Regs) (vin iin v iout : NUM), s.regs = some r →
    let duty : NUM := (ctrlStep s.P r.ctrl v).2
    let period : Int := max 2 r.pwm.period_counts
    let raw : BIT := if r.pwm.cnt < ⌊duty * period⌋ then 1#1 else 0#1
    let arm : Int := if raw = r.pwm.last_raw_u then r.pwm.dt_counter else r.pwm.dead_counts
    ∃ q o, exec (.step vin iin v iout) s = .next { s with regs := some q, responses := s.responses ++ [o] } ∧
      (0 < r.pwm.dead_counts → q.pwm.last_raw_u = raw) ∧
      (o = { out0 := 0#1, out1 := 0#1 } ↔ 0 < r.pwm.dead_counts ∧ 0 < arm) ∧
      (¬(0 < r.pwm.dead_counts ∧ 0 < arm) → o = { out0 := raw, out1 := 1#1 - raw }) ∧
      (r.pwm.Inv → 0 ≤ arm ∧ arm ≤ r.pwm.dead_counts)
end

