-- ==== Sys2Proof/Laws/Num.lean ====
section
/-! SUPPORT. What the arithmetic primitives do, said once: clamp keeps within its bounds and moves nothing inside them,
floor and round in terms of the library's floor (00_scope.md R10 to R13). -/

namespace Sys2Proof.Machine

theorem clamp_num {x lo hi : NUM} (h : lo ≤ hi) : clamp x lo hi = max lo (min hi x) := by
  unfold clamp
  split
  · next hx => rw [min_eq_right (hx.le.trans h), max_eq_left hx.le]
  · next hx =>
    split
    · next hi' => rw [min_eq_left hi'.le, max_eq_right h]
    · next hi' => rw [min_eq_right (not_lt.mp hi'), max_eq_right (not_lt.mp hx)]

theorem clamp_int {x lo hi : Int} (h : lo ≤ hi) : clamp x lo hi = max lo (min hi x) := by
  unfold clamp
  split
  · omega
  · split <;> omega

@[simp] theorem floor_eq (x : NUM) : floor x = ⌊x⌋ := rfl

/-- On the positive arguments that reach it, round is `floor(x + 1/2)` (00_scope.md R12). -/
theorem round_of_nonneg {x : NUM} (h : 0 ≤ x) : round x = ⌊x + 1 / 2⌋ := by simp [round, h]

theorem round_nonneg {x : NUM} (h : 0 ≤ x) : 0 ≤ round x := by
  rw [round_of_nonneg h]
  exact Int.floor_nonneg.mpr (by linarith)

@[simp] theorem div2_eq (n : Int) : div2 n = n / 2 := rfl

@[simp] theorem real_one : real 1#1 = 1 := rfl

@[simp] theorem real_zero : real 0#1 = 0 := rfl

/-- A BIT is 0 or 1 (00_scope.md R9). -/
theorem bit_cases (b : BIT) : b = 0#1 ∨ b = 1#1 := by
  rcases (show b.toNat = 0 ∨ b.toNat = 1 by omega) with h | h
  · exact .inl (BitVec.eq_of_toNat_eq h)
  · exact .inr (BitVec.eq_of_toNat_eq h)

end Sys2Proof.Machine
end

