-- ==== Sys2Proof/Laws/State.lean ====
section
/-! SUPPORT. One lemma per field per update of the state and of the register records, each true by definition. -/

namespace Sys2Proof.Machine

@[simp] theorem setRegs_P (s : State) (r : Regs) : (s.setRegs r).P = s.P := rfl
@[simp] theorem setRegs_wCnt (s : State) (r : Regs) : (s.setRegs r).wCnt = s.wCnt := rfl
@[simp] theorem setRegs_regs (s : State) (r : Regs) : (s.setRegs r).regs = some r := rfl
@[simp] theorem setRegs_pending (s : State) (r : Regs) : (s.setRegs r).pending = s.pending := rfl
@[simp] theorem setRegs_responses (s : State) (r : Regs) : (s.setRegs r).responses = s.responses := rfl

@[simp] theorem respond_P (s : State) (o : Response) : (s.respond o).P = s.P := rfl
@[simp] theorem respond_wCnt (s : State) (o : Response) : (s.respond o).wCnt = s.wCnt := rfl
@[simp] theorem respond_regs (s : State) (o : Response) : (s.respond o).regs = s.regs := rfl
@[simp] theorem respond_pending (s : State) (o : Response) : (s.respond o).pending = s.pending := rfl
@[simp] theorem respond_responses (s : State) (o : Response) :
    (s.respond o).responses = s.responses ++ [o] := rfl

@[simp] theorem setPending_P (s : State) (cs : List Command) : (s.setPending cs).P = s.P := rfl
@[simp] theorem setPending_wCnt (s : State) (cs : List Command) : (s.setPending cs).wCnt = s.wCnt := rfl
@[simp] theorem setPending_regs (s : State) (cs : List Command) : (s.setPending cs).regs = s.regs := rfl
@[simp] theorem setPending_pending (s : State) (cs : List Command) : (s.setPending cs).pending = cs := rfl
@[simp] theorem setPending_responses (s : State) (cs : List Command) :
    (s.setPending cs).responses = s.responses := rfl

/-- The three updates touch different fields, so they commute. -/
theorem setRegs_setPending (s : State) (r : Regs) (cs : List Command) :
    (s.setPending cs).setRegs r = (s.setRegs r).setPending cs := rfl

theorem respond_setPending (s : State) (o : Response) (cs : List Command) :
    (s.setPending cs).respond o = (s.respond o).setPending cs := rfl

theorem setPending_setPending (s : State) (cs ds : List Command) :
    (s.setPending cs).setPending ds = s.setPending ds := rfl

@[simp] theorem latchRaw_period (g : PwmGen) (b : BIT) : (latchRaw g b).period_counts = g.period_counts := rfl
@[simp] theorem latchRaw_dead (g : PwmGen) (b : BIT) : (latchRaw g b).dead_counts = g.dead_counts := rfl
@[simp] theorem latchRaw_cnt (g : PwmGen) (b : BIT) : (latchRaw g b).cnt = g.cnt := rfl
@[simp] theorem latchRaw_last (g : PwmGen) (b : BIT) : (latchRaw g b).last_raw_u = b := rfl
@[simp] theorem latchRaw_dt (g : PwmGen) (b : BIT) : (latchRaw g b).dt_counter = g.dt_counter := rfl

@[simp] theorem blank_period (g : PwmGen) : (blank g).1.period_counts = g.period_counts := rfl
@[simp] theorem blank_dead (g : PwmGen) : (blank g).1.dead_counts = g.dead_counts := rfl
@[simp] theorem blank_cnt (g : PwmGen) : (blank g).1.cnt = g.cnt := rfl
@[simp] theorem blank_last (g : PwmGen) : (blank g).1.last_raw_u = g.last_raw_u := rfl
@[simp] theorem blank_dt (g : PwmGen) : (blank g).1.dt_counter = g.dt_counter - 1 := rfl
@[simp] theorem blank_gates (g : PwmGen) : (blank g).2 = ⟨0#1, 0#1⟩ := rfl

@[simp] theorem outVector_out0 (g : Gates) : (outVector g).out0 = g.gate_high := rfl
@[simp] theorem outVector_out1 (g : Gates) : (outVector g).out1 = g.gate_low := rfl

@[simp] theorem measuredVout_inVector (a b v d : NUM) : measuredVout (inVector a b v d) = v := rfl

end Sys2Proof.Machine
end

