-- ==== Sys2Proof/Laws/Pwm.lean ====
section
/-! SUPPORT. What each stage of PWM.STEP does, said once, so that no later proof unfolds one (41_pwm_generator.md R73). -/

namespace Sys2Proof.Machine

@[simp] theorem refloor_period (g : PwmGen) : (refloor g).period_counts = max 2 g.period_counts := by
  unfold refloor; split <;> simp <;> omega
@[simp] theorem refloor_dead (g : PwmGen) : (refloor g).dead_counts = g.dead_counts := by
  unfold refloor; split <;> rfl
@[simp] theorem refloor_cnt (g : PwmGen) : (refloor g).cnt = g.cnt := by
  unfold refloor; split <;> rfl
@[simp] theorem refloor_last (g : PwmGen) : (refloor g).last_raw_u = g.last_raw_u := by
  unfold refloor; split <;> rfl
@[simp] theorem refloor_dt (g : PwmGen) : (refloor g).dt_counter = g.dt_counter := by
  unfold refloor; split <;> rfl

@[simp] theorem advance_period (g : PwmGen) : (advance g).period_counts = g.period_counts := by
  unfold advance; split <;> rfl
@[simp] theorem advance_dead (g : PwmGen) : (advance g).dead_counts = g.dead_counts := by
  unfold advance; split <;> rfl
@[simp] theorem advance_last (g : PwmGen) : (advance g).last_raw_u = g.last_raw_u := by
  unfold advance; split <;> rfl
@[simp] theorem advance_dt (g : PwmGen) : (advance g).dt_counter = g.dt_counter := by
  unfold advance; split <;> rfl
theorem advance_cnt (g : PwmGen) :
    (advance g).cnt = if g.cnt + 1 ≥ g.period_counts then 0 else g.cnt + 1 := by
  unfold advance; split <;> rfl

/-- S2 within its clamp. -/
theorem onCounts_bounds {period : Int} (h : 0 ≤ period) (duty : NUM) :
    0 ≤ onCounts period duty ∧ onCounts period duty ≤ period := by
  rw [onCounts, clamp_int h]; omega

/-- S5: without deadtime the raw pair goes out and nothing is written (41_pwm_generator.md R73). -/
theorem drive_off {g : PwmGen} (h : g.dead_counts ≤ 0) (raw : BIT) : drive g raw = (g, emitRaw raw) := by
  simp [drive, not_lt.mpr h]

/-- S4b: a tick whose armed counter is positive is blanked. -/
theorem drive_blank {g : PwmGen} {raw : BIT} (h : 0 < g.dead_counts) (ha : 0 < armed g raw) :
    drive g raw = ({ g with dt_counter := armed g raw - 1, last_raw_u := raw }, ⟨0#1, 0#1⟩) := by
  simp [drive, driveWithDeadtime, h, ha, blank, latchRaw]

/-- S4c: a tick whose armed counter is not positive emits the raw pair. -/
theorem drive_emit {g : PwmGen} {raw : BIT} (h : 0 < g.dead_counts) (ha : armed g raw ≤ 0) :
    drive g raw = ({ g with dt_counter := armed g raw, last_raw_u := raw }, emitRaw raw) := by
  simp [drive, driveWithDeadtime, h, not_lt.mpr ha, latchRaw]

/-- Everything S4 and S5 can do. -/
theorem drive_cases (g : PwmGen) (raw : BIT) :
    (g.dead_counts ≤ 0 ∧ drive g raw = (g, emitRaw raw)) ∨
    (0 < g.dead_counts ∧ 0 < armed g raw ∧
      drive g raw = ({ g with dt_counter := armed g raw - 1, last_raw_u := raw }, ⟨0#1, 0#1⟩)) ∨
    (0 < g.dead_counts ∧ armed g raw ≤ 0 ∧
      drive g raw = ({ g with dt_counter := armed g raw, last_raw_u := raw }, emitRaw raw)) := by
  rcases le_or_gt g.dead_counts 0 with h | h
  · exact .inl ⟨h, drive_off h raw⟩
  · rcases le_or_gt (armed g raw) 0 with ha | ha
    · exact .inr (.inr ⟨h, ha, drive_emit h ha⟩)
    · exact .inr (.inl ⟨h, ha, drive_blank h ha⟩)

@[simp] theorem drive_period (g : PwmGen) (raw : BIT) : (drive g raw).1.period_counts = g.period_counts := by
  rcases drive_cases g raw with ⟨-, h⟩ | ⟨-, -, h⟩ | ⟨-, -, h⟩ <;> rw [h]
@[simp] theorem drive_dead (g : PwmGen) (raw : BIT) : (drive g raw).1.dead_counts = g.dead_counts := by
  rcases drive_cases g raw with ⟨-, h⟩ | ⟨-, -, h⟩ | ⟨-, -, h⟩ <;> rw [h]
@[simp] theorem drive_cnt (g : PwmGen) (raw : BIT) : (drive g raw).1.cnt = g.cnt := by
  rcases drive_cases g raw with ⟨-, h⟩ | ⟨-, -, h⟩ | ⟨-, -, h⟩ <;> rw [h]

@[simp] theorem pwmStep_period (g : PwmGen) (duty : NUM) :
    (pwmStep g duty).1.period_counts = max 2 g.period_counts := by simp [pwmStep]
@[simp] theorem pwmStep_dead (g : PwmGen) (duty : NUM) :
    (pwmStep g duty).1.dead_counts = g.dead_counts := by simp [pwmStep]
theorem pwmStep_cnt (g : PwmGen) (duty : NUM) :
    (pwmStep g duty).1.cnt = if g.cnt + 1 ≥ max 2 g.period_counts then 0 else g.cnt + 1 := by
  simp [pwmStep, advance_cnt]

/-- The armed counter of a tick does not depend on the period, so S1 does not touch it. -/
@[simp] theorem armed_refloor (g : PwmGen) (raw : BIT) : armed (refloor g) raw = armed g raw := by
  simp [armed, edge]

end Sys2Proof.Machine
end

