-- ==== Sys2Proof/Laws/Exec.lean ====
section
/-! SUPPORT. What an operation, a step and a run can do, said once, for the proofs to cite. -/

namespace Sys2Proof.Machine

theorem exec_init_of_fits {s : State} (h : FitsWidth s.wCnt s.P) :
    exec .init s = .next (s.setRegs (Regs.initial s.P)) := by
  simp only [FitsWidth] at h
  simp [exec, execInit, h]

theorem exec_step_of_regs {s : State} {r : Regs} (h : s.regs = some r) (a b v d : NUM) :
    exec (.step a b v d) s =
      .next ((s.setRegs (tick s.P r v).1).respond (outVector (tick s.P r v).2)) := by
  simp [exec, execStep, h]

/-- Everything an operation that answers a next state can have done. -/
theorem exec_next_cases {i : Instr} {s t : State} (h : exec i s = .next t) :
    (i = .init ∧ FitsWidth s.wCnt s.P ∧ t = s.setRegs (Regs.initial s.P)) ∨
    (∃ a b v d r, i = .step a b v d ∧ s.regs = some r ∧
      t = (s.setRegs (tick s.P r v).1).respond (outVector (tick s.P r v).2)) ∨
    (i = .term ∧ t = s) := by
  cases i with
  | init =>
    simp only [exec, execInit] at h
    split at h
    · next hf => cases h; exact .inl ⟨rfl, hf, rfl⟩
    · cases h
  | step a b v d =>
    simp only [exec, execStep] at h
    split at h
    · cases h
    · next r hr => cases h; exact .inr (.inl ⟨a, b, v, d, r, rfl, hr, rfl⟩)
  | term => cases h; exact .inr (.inr ⟨rfl, rfl⟩)

/-- Everything a step that answers a next state can have done: idle, or one decoded operation. -/
theorem step_next_cases {s t : State} (h : step s = .next t) :
    (s.pending = [] ∧ t = s) ∨
    ∃ c rest i, s.pending = c :: rest ∧ decode c = .instr i ∧ exec i (s.setPending rest) = .next t := by
  simp only [step, fetch] at h
  split at h
  · next hf =>
    split at hf
    · next hp => cases h; exact .inl ⟨hp, rfl⟩
    · cases hf
  · next c s' hf =>
    split at hf
    · cases hf
    · next c' rest hp =>
      cases hf
      split at h
      · next i hd => exact .inr ⟨c, rest, i, hp, hd, h⟩
      · cases h

@[simp] theorem runInstrs_nil (s : State) : runInstrs [] s = .next s := rfl

theorem runInstrs_cons_of_next {i : Instr} {s t : State} (h : exec i s = .next t) (is : List Instr) :
    runInstrs (i :: is) s = runInstrs is t := by simp [runInstrs, h]

/-- A run that answers a next state took a first operation that did. -/
theorem runInstrs_cons_next {i : Instr} {is : List Instr} {s t : State}
    (h : runInstrs (i :: is) s = .next t) : ∃ u, exec i s = .next u ∧ runInstrs is u = .next t := by
  simp only [runInstrs] at h
  split at h
  · next u hu => exact ⟨u, hu, h⟩
  · cases h
  · cases h

end Sys2Proof.Machine
end

