-- ==== Sys2Proof/Laws/PerInstr.lean ====
section
/-! SUPPORT. Per-instruction facts about instructions as syntax: the family Opcode, the code of each instruction's word. -/

namespace Sys2Proof.Laws.Opcode

/-- The table's match value of each row (30_encoding.md R51, spec/opcode_table.json). -/
def matchOf (i : Instr) : Nat :=
  match i with
  | .init => 1
  | .step _ _ _ _ => 2
  | .term => 3

/-- The word of an instruction is a well-formed word whose code is its row's match value. -/
def Statement (i : Instr) : Prop := (encode i).wellFormed = true ∧ (encode i).op.toNat = matchOf i

theorem init : Statement .init := ⟨rfl, rfl⟩

theorem step (in0 in1 in2 in3 : NUM) : Statement (.step in0 in1 in2 in3) := ⟨rfl, rfl⟩

theorem term : Statement .term := ⟨rfl, rfl⟩

end Sys2Proof.Laws.Opcode
end

