-- ==== Sys2Proof/Machine/TraceText.lean ====
section
/-! DEFINITION. Reading a listing written in the trace syntax of 30_encoding.md R57, R58: one command a line, upper-case
mnemonics, NUM literals, comments after a semicolon. A text that is no listing is rejected (log 22). -/

namespace Sys2Proof.Machine

/-- The text of a line before its comment (30_encoding.md R57: a semicolon starts a comment). -/
def dropComment (cs : List Char) : List Char := cs.takeWhile (· != ';')

/-- Leading spaces carry no meaning; a tab is no space (DESIGN CHOICE, log 22). -/
def skipSpaces (cs : List Char) : List Char := cs.dropWhile (· == ' ')

/-- The longest run of digits at the front: its value after `acc`, how many there are after `n`, and the rest. -/
def readDigits : List Char → Nat → Nat → Nat × Nat × List Char
  | [], acc, n => (acc, n, [])
  | c :: cs, acc, n =>
    if 48 ≤ c.toNat ∧ c.toNat ≤ 57 then readDigits cs (10 * acc + (c.toNat - 48)) (n + 1) else (acc, n, c :: cs)

/-- An optional minus sign: the factor it stands for, and the rest. -/
def readSign (cs : List Char) : Int × List Char :=
  match cs with
  | '-' :: rest => (-1, rest)
  | _ => (1, cs)

/-- An integer, signed or not; none where no digit stands. -/
def readInt (cs : List Char) : Option (Int × List Char) :=
  let s := readSign cs
  let d := readDigits s.2 0 0
  if d.2.1 = 0 then none else some (s.1 * d.1, d.2.2)

/-- The power of ten after a mantissa: a lower-case `e` and an integer, signed or not, or nothing (DESIGN CHOICE on the
letter and the sign, log 22). -/
def readExponent (cs : List Char) : Option (Int × List Char) :=
  match cs with
  | 'e' :: rest => readInt rest
  | _ => some (0, cs)

/-- A NUM literal, a decimal such as 0.05, -3 or 1e-5, or a fraction a/b (30_encoding.md R57). DESIGN CHOICE (log 22),
where R57 leaves a literal's form open: a and b are integers, each with or without a minus sign, so that the
denominator b may be negative; no space stands within a literal, no plus sign leads one, and digits stand on both sides
of a decimal point. -/
def readLit (cs : List Char) : Option (NumLit × List Char) :=
  let s := readSign cs
  let d := readDigits s.2 0 0
  if d.2.1 = 0 then none
  else
    match d.2.2 with
    | '/' :: rest => (readInt rest).map fun r => (.fraction (s.1 * d.1) r.1, r.2)
    | '.' :: rest =>
      let f := readDigits rest d.1 0
      if f.2.1 = 0 then none
      else (readExponent f.2.2).map fun r => (.decimal (s.1 * f.1) (r.1 - f.2.1), r.2)
    | rest => (readExponent rest).map fun r => (.decimal (s.1 * d.1) r.1, r.2)

/-- The comma between two operands, with spaces around it; none where another character stands. -/
def readComma (cs : List Char) : Option (List Char) :=
  match skipSpaces cs with
  | ',' :: rest => some (skipSpaces rest)
  | _ => none

/-- What follows the mnemonic STEPV: a literal, then nothing or `* n`. -/
def readStepv (cs : List Char) : Option TraceLine :=
  (readLit (skipSpaces cs)).bind fun v =>
    match skipSpaces v.2 with
    | [] => some (.stepv v.1)
    | '*' :: rest =>
      let n := readDigits (skipSpaces rest) 0 0
      if n.2.1 = 0 ∨ skipSpaces n.2.2 ≠ [] then none else some (.stepvTimes v.1 n.1)
    | _ => none

/-- What follows the mnemonic STEP: four literals with commas between them. -/
def readStep (cs : List Char) : Option TraceLine :=
  (readLit (skipSpaces cs)).bind fun a =>
  (readComma a.2).bind fun cs =>
  (readLit cs).bind fun b =>
  (readComma b.2).bind fun cs =>
  (readLit cs).bind fun c =>
  (readComma c.2).bind fun cs =>
  (readLit cs).bind fun d =>
    if skipSpaces d.2 = [] then some (.step a.1 b.1 c.1 d.1) else none

/-- One line; an empty line or a comment alone is no command, and a line that is not well formed is rejected. -/
def readLine (cs : List Char) : Option (List TraceLine) :=
  let line : Option (List TraceLine) :=
    match skipSpaces (dropComment cs) with
    | [] => some ([] : List TraceLine)
    | 'I' :: 'N' :: 'I' :: 'T' :: rest => if skipSpaces rest = [] then some [.init] else none
    | 'T' :: 'E' :: 'R' :: 'M' :: rest => if skipSpaces rest = [] then some [.term] else none
    | 'S' :: 'T' :: 'E' :: 'P' :: 'V' :: ' ' :: rest => (readStepv rest).map fun l => [l]
    | 'S' :: 'T' :: 'E' :: 'P' :: ' ' :: rest => (readStep rest).map fun l => [l]
    | _ => none
  line.bind fun ls => if ls.all TraceLine.wellFormed then some ls else none

/-- The characters of a text, cut into lines. -/
def linesOf : List Char → List (List Char)
  | [] => [[]]
  | '\n' :: cs => [] :: linesOf cs
  | c :: cs =>
    match linesOf cs with
    | [] => [[c]]
    | l :: ls => (c :: l) :: ls

/-- A whole listing, one command per line; none where a line is no command (30_encoding.md R57). -/
def readListing (cs : List Char) : Option (List TraceLine) :=
  (linesOf cs).foldr (fun l acc => (readLine l).bind fun x => acc.map fun xs => x ++ xs) (some [])

end Sys2Proof.Machine
end

