-- ==== Sys2Proof/Tests/Slice0.lean ====
section
/-! SUPPORT. The model's own tests. Expected results are those of spec/95_test_vectors.md, the worked examples of the rules,
or words written out from 30_encoding.md R51; then one witness per statement that has hypotheses. -/

-- One theorem at a time: many kernel evaluations at once would each take a thread with a stack of its own.
set_option Elab.async false

namespace Sys2Proof.Tests

open Sys2Proof.Machine

/-- The configuration of programs PG1, PG2 and PG5. -/
def pg1P : Params := ⟨1 / 10, 1000, 1 / 100000, 10000, 5, 2 / 100000⟩

/-- PG1's configuration with another deadtime. -/
def withDeadtime (d : NUM) : Params := { pg1P with deadtime_s := d }

/-- PG1's configuration with another switching frequency. -/
def withFsw (f : NUM) : Params := { pg1P with fsw := f }

/-- The six fields in the order of 95_test_vectors.md. -/
def fields (integ : NUM) (period dead cnt : Int) (last : BIT) (dt : Int) : Regs :=
  ⟨⟨integ⟩, ⟨period, dead, cnt, last, dt⟩⟩

/-- An instance with PG1's configuration and these fields, nothing issued and nothing answered. -/
def stateOf (r : Regs) : State := ⟨pg1P, none, some r, [], []⟩

/-- A power-on instance with PG1's configuration to which one word has been issued. -/
def issued (w : Nat) : State := (State.powerOn pg1P none).withFetchWord 8 w

/-- The next state, where there is one. -/
def nextOf (o : Host.Outcome State Fault Refusal) : Option State :=
  match o with
  | .next s => some s
  | .fault _ => none
  | .refused _ => none

/-- The refusal, where there is one. -/
def refusalOf (o : Host.Outcome State Fault Refusal) : Option Refusal :=
  match o with
  | .next _ => none
  | .fault _ => none
  | .refused x => some x

/-! ## Encoding -/

/-- 30_encoding.md R51: op 01 is INIT. -/
theorem test_decode_init : decode ⟨0b01#2, 7, 7, 7, 7⟩ = .instr .init := by decide +kernel

/-- 30_encoding.md R51, R53: op 10 is STEP, its elements in order; PG3's command 2. -/
theorem test_decode_step :
    decode ⟨0b10#2, 48, 3 / 2, 0, -2⟩ = .instr (.step 48 (3 / 2) 0 (-2)) := by decide +kernel

/-- 30_encoding.md R51: op 11 is TERM. -/
theorem test_decode_term : decode ⟨0b11#2, 0, 0, 0, 0⟩ = .instr .term := by decide +kernel

/-- 30_encoding.md R54: op 00 is reserved. -/
theorem test_decode_reserved : decode ⟨0b00#2, 1, 2, 3, 4⟩ = .reservedOp := by decide +kernel

/-- spec/opcode_table.json: match 1, 2, 3 under mask 3, and 0 is no row. -/
theorem test_table_words :
    decodeTableWord 8 1 = some .init ∧ decodeTableWord 8 2 = some (.step 0 0 0 0) ∧
    decodeTableWord 8 3 = some .term ∧ decodeTableWord 8 0 = none := by decide +kernel

/-- The ill-formed term of Command.wellFormed: the reserved code. -/
theorem test_wellFormed_refuses_reserved :
    Command.wellFormed ⟨0b00#2, 0, 0, 0, 0⟩ = false ∧ Command.wellFormed ⟨0b10#2, 0, 0, 0, 0⟩ = true := by decide

/-- The ill-formed terms of the trace syntax: a fraction over 0, and a repeat count of 0 (30_encoding.md R58). -/
theorem test_wellFormed_refuses_lines :
    TraceLine.wellFormed (.stepv (.fraction 1 0)) = false ∧
    TraceLine.wellFormed (.step (.decimal 0 0) (.decimal 0 0) (.decimal 0 0) (.fraction 1 0)) = false ∧
    TraceLine.wellFormed (.stepvTimes (.decimal 5 0) 0) = false ∧
    TraceLine.wellFormed (.stepvTimes (.decimal 5 0) 1) = true := by decide

/-- Every instruction is well formed (30_encoding.md R54: every value of every element is legal). -/
theorem test_wellFormed_instr (i : Instr) : i.wellFormed = true := by cases i <;> rfl

/-- 30_encoding.md R57, R58: 1e-5, 0.05 and -3 denote these rationals, and `STEPV 5 * 2` two STEPs of Vout 5. -/
theorem test_trace_lines :
    (NumLit.decimal 1 (-5)).value = 1 / 100000 ∧ (NumLit.decimal 5 (-2)).value = 1 / 20 ∧
    (NumLit.decimal (-3) 0).value = -3 ∧ (NumLit.fraction 3 2).value = 3 / 2 ∧
    TraceLine.expand (.stepvTimes (.decimal 5 0) 2) = [.step 0 0 5 0, .step 0 0 5 0] := by decide +kernel

/-- 30_encoding.md R57, R58: PG3's command 2 and a `STEPV 1e-5 * 3` with a comment, as text; the mnemonics are upper
case, and a fraction over 0 is no literal. That a denominator may carry a minus sign is the choice of log 22. -/
theorem test_trace_text :
    readLine "STEP 48, 1.5, 0, -2".toList = some [.step (.decimal 48 0) (.decimal 15 (-1)) (.decimal 0 0) (.decimal (-2) 0)] ∧
    readLine "STEPV 1e-5 * 3 ; ramp".toList = some [.stepvTimes (.decimal 1 (-5)) 3] ∧
    readListing "INIT\nSTEPV 1/2\nTERM".toList = some [.init, .stepv (.fraction 1 2), .term] ∧
    readLine "Init".toList = none ∧ readLine "STEPV 1/0".toList = none ∧
    readLine ("STEPV 1/" ++ "-2").toList = some [.stepv (.fraction 1 (-2))] := by decide +kernel

/-! ## INIT -/

/-- PG1 command 1 (95_test_vectors.md): from power-on the fields become 0, 10, 2, 0, 0, 0. -/
theorem test_init_from_power_on :
    (nextOf (step (issued 1))).bind (·.regs) = some (fields 0 10 2 0 0 0) := by decide +kernel

/-- 42_lifecycle.md R90 with a 3-bit width: period_counts 10 does not fit (60_exceptions.md R105). -/
theorem test_init_counter_width :
    refusalOf (step ((State.powerOn pg1P (some 3)).withFetchWord 8 1)) = some .counterWidth := by decide +kernel

/-! ## STEP -/

/-- The worked example of 42_lifecycle.md R91, PG1 command 2: the start-up edge is armed and blanked. -/
theorem test_step_worked_example :
    nextOf (step ((stateOf (fields 0 10 2 0 0 0)).withFetchWord 8 2)) =
      some { stateOf (fields (1 / 20) 10 2 1 1 1) with responses := [⟨0, 0⟩] } := by decide +kernel

/-- PG2 command 5: `STEPV 5` at Vref leaves integ at 3/20 and the falling edge at cnt 3 is blanked. -/
theorem test_step_falling_edge :
    nextOf (exec (.step 0 0 5 0) (stateOf (fields (3 / 20) 10 2 3 1 0))) =
      some { stateOf (fields (3 / 20) 10 2 4 0 1) with responses := [⟨0, 0⟩] } := by decide +kernel

/-- PG5 command 2: STEP before any INIT. -/
theorem test_step_before_init : refusalOf (step (issued 2)) = some .stepBeforeInit := by decide +kernel

/-! ## TERM, the reserved word and the idle step -/

/-- PG5 command 1: TERM before INIT is accepted and changes nothing. -/
theorem test_term_before_init : nextOf (step (issued 3)) = some (State.powerOn pg1P none) := by decide +kernel

/-- PG1 command 16: TERM leaves the six fields. -/
theorem test_term_changes_nothing :
    nextOf (exec .term (stateOf (fields (7 / 10) 10 2 4 1 0))) = some (stateOf (fields (7 / 10) 10 2 4 1 0)) := by
  decide +kernel

/-- PG5 commands 3 and 8: the reserved word is refused in any state. -/
theorem test_reserved_word :
    refusalOf (step (issued 0)) = some .reservedOp ∧
    refusalOf (step ((stateOf (fields (3 / 20) 10 2 3 1 0)).withFetchWord 8 0)) = some .reservedOp := by decide +kernel

/-- Each table word is the first command to run after reset, whatever the free parameters are. -/
theorem test_first_command_after_reset :
    (nextOf (step (State.reset.withFetchWord 8 1))).isSome = true ∧
    (nextOf (step (State.reset.withFetchWord 8 2))).isSome = true ∧
    (nextOf (step (State.reset.withFetchWord 8 3))).isSome = true := ⟨rfl, rfl, rfl⟩

/-! ## The vectors of 95_test_vectors.md, part 2 -/

/-- A row of section 2.1. -/
structure CtrlRow where
  kp : NUM
  ki : NUM
  ts : NUM
  vref : NUM
  integ : NUM
  v : NUM
  newInteg : NUM
  duty : NUM

/-- A row of section 2.2. -/
structure InitRow where
  ts : NUM
  fsw : NUM
  deadtime : NUM
  period : Int
  dead : Int

/-- A row of section 2.3. -/
structure TickRow where
  before : PwmGen
  duty : NUM
  after : PwmGen × Gates

def cvRows1 : List CtrlRow :=
  [⟨1 / 10, 1000, 1 / 100000, 5, 0, 0, 1 / 20, 11 / 20⟩,
   ⟨1 / 10, 1000, 1 / 100000, 5, 99 / 100, 0, 1, 49 / 50⟩,
   ⟨1 / 10, 1000, 1 / 100000, 5, 3 / 100, 10, 0, 1 / 50⟩,
   ⟨1 / 10, 1000, 1 / 100000, 5, 3 / 20, 5, 3 / 20, 3 / 20⟩,
   ⟨1 / 10, 1000, 1 / 100000, 5, 0, 5, 0, 1 / 50⟩,
   ⟨1 / 10, 1000, 1 / 100000, 5, 1, 5, 1, 49 / 50⟩,
   ⟨1 / 10, 1000, 1 / 100000, 5, 1, 10, 19 / 20, 9 / 20⟩,
   ⟨1 / 10, 1000, 1 / 100000, 5, 0, 24 / 5, 1 / 500, 11 / 500⟩]

def cvRows2 : List CtrlRow :=
  [⟨1 / 10, 1000, 1 / 100000, 5, 0, 241 / 50, 9 / 5000, 1 / 50⟩,
   ⟨1 / 10, 1000, 1 / 100000, 5, 1 / 2, -995, 1, 49 / 50⟩,
   ⟨1 / 10, 1000, 1 / 100000, 5, 1 / 2, 1005, 0, 1 / 50⟩,
   ⟨1 / 10, 1000, 1 / 100000, 5, 19 / 20, 0, 1, 49 / 50⟩,
   ⟨1 / 10, 1000, 1 / 100000, 5, 1 / 20, 10, 0, 1 / 50⟩,
   ⟨1 / 10, 0, 1 / 100000, 5, 1 / 4, 0, 1 / 4, 3 / 4⟩,
   ⟨1 / 10, 1000, 0, 5, 1 / 4, 0, 1 / 4, 3 / 4⟩,
   ⟨1 / 10, 1000, -1 / 100000, 5, 1 / 4, 0, 1 / 5, 7 / 10⟩]

def cvRows3 : List CtrlRow :=
  [⟨-1 / 10, -1000, 1 / 100000, 5, 1 / 4, 0, 1 / 5, 1 / 50⟩,
   ⟨0, 1000, 1 / 100000, 5, 49 / 50, 0, 1, 49 / 50⟩,
   ⟨1, 1000, 1 / 100000, 5, 1, 11 / 2, 199 / 200, 99 / 200⟩,
   ⟨1 / 10, 1000, 1 / 100000, 5, 1 / 5, 24 / 5, 101 / 500, 111 / 500⟩,
   ⟨12 / 125, 0, 1 / 100000, 5, 0, 0, 0, 12 / 25⟩,
   ⟨1 / 250, 0, 1 / 100000, 5, 0, 0, 0, 1 / 50⟩,
   ⟨49 / 250, 0, 1 / 100000, 5, 0, 0, 0, 49 / 50⟩]

/-- 95_test_vectors.md CV1 to CV23: Kp, Ki, Ts, Vref, prior integ, v, new integ, duty. -/
def cvRows : List CtrlRow := cvRows1 ++ cvRows2 ++ cvRows3

def ivRows1 : List InitRow :=
  [⟨1 / 100000, 10000, 1 / 10000000, 10, 0⟩,
   ⟨1 / 10000000, 10000, 1 / 10000000, 1000, 1⟩,
   ⟨1 / 100000, 10000, 1 / 50000, 10, 2⟩,
   ⟨1 / 100000, 0, 1 / 50000, 100, 2⟩,
   ⟨1 / 100000, -10000, 1 / 50000, 100, 2⟩,
   ⟨0, 10000, 1 / 50000, 100, 0⟩,
   ⟨-1 / 100000, 10000, 1 / 50000, 100, 0⟩,
   ⟨1 / 100000, 1000000, 1 / 50000, 2, 1⟩]

def ivRows2 : List InitRow :=
  [⟨1 / 100000, 70000, 1 / 100000, 2, 1⟩,
   ⟨1 / 100000, 60000, 1 / 100000, 2, 1⟩,
   ⟨1 / 100000, 40000, 1 / 100000, 3, 1⟩,
   ⟨1 / 100000, 40000, 1 / 250000, 3, 0⟩,
   ⟨1 / 100000, 10000, 1 / 200000, 10, 1⟩,
   ⟨1 / 100000, 10000, 49 / 10000000, 10, 0⟩,
   ⟨1 / 100000, 10000, 3 / 200000, 10, 2⟩,
   ⟨1 / 100000, 10000, 9 / 200000, 10, 5⟩]

def ivRows3 : List InitRow :=
  [⟨1 / 100000, 10000, 1 / 20000, 10, 5⟩,
   ⟨1 / 100000, 10000, 1 / 10000, 10, 5⟩,
   ⟨1 / 100000, 20000, 1 / 10000, 5, 2⟩,
   ⟨1 / 100000, 0, 1 / 1000, 100, 50⟩,
   ⟨1 / 100000, 10000, 0, 10, 0⟩,
   ⟨1 / 100000, 10000, -1 / 1000000, 10, 0⟩]

/-- 95_test_vectors.md IV1 to IV22: Ts, fsw, deadtime_s, period_counts, dead_counts. -/
def ivRows : List InitRow := ivRows1 ++ ivRows2 ++ ivRows3

def wvRows1 : List TickRow :=
  [⟨⟨10, 2, 0, 0, 0⟩, 1 / 2, ⟨⟨10, 2, 1, 1, 1⟩, ⟨0, 0⟩⟩⟩,
   ⟨⟨10, 2, 1, 1, 1⟩, 1 / 2, ⟨⟨10, 2, 2, 1, 0⟩, ⟨0, 0⟩⟩⟩,
   ⟨⟨10, 2, 2, 1, 0⟩, 1 / 2, ⟨⟨10, 2, 3, 1, 0⟩, ⟨1, 0⟩⟩⟩,
   ⟨⟨10, 2, 5, 1, 0⟩, 1 / 2, ⟨⟨10, 2, 6, 0, 1⟩, ⟨0, 0⟩⟩⟩,
   ⟨⟨10, 2, 7, 0, 0⟩, 1 / 2, ⟨⟨10, 2, 8, 0, 0⟩, ⟨0, 1⟩⟩⟩,
   ⟨⟨10, 2, 9, 0, 0⟩, 1 / 2, ⟨⟨10, 2, 0, 0, 0⟩, ⟨0, 1⟩⟩⟩,
   ⟨⟨10, 0, 0, 0, 0⟩, 1 / 2, ⟨⟨10, 0, 1, 0, 0⟩, ⟨1, 0⟩⟩⟩,
   ⟨⟨10, 0, 5, 0, 0⟩, 1 / 2, ⟨⟨10, 0, 6, 0, 0⟩, ⟨0, 1⟩⟩⟩]

def wvRows2 : List TickRow :=
  [⟨⟨10, 1, 0, 0, 0⟩, 1 / 2, ⟨⟨10, 1, 1, 1, 0⟩, ⟨0, 0⟩⟩⟩,
   ⟨⟨10, 1, 1, 1, 0⟩, 1 / 2, ⟨⟨10, 1, 2, 1, 0⟩, ⟨1, 0⟩⟩⟩,
   ⟨⟨10, 3, 1, 1, 2⟩, 1 / 10, ⟨⟨10, 3, 2, 0, 2⟩, ⟨0, 0⟩⟩⟩,
   ⟨⟨10, 2, 0, 0, 1⟩, 49 / 50, ⟨⟨10, 2, 1, 1, 1⟩, ⟨0, 0⟩⟩⟩,
   ⟨⟨10, 2, 3, 1, 0⟩, 1, ⟨⟨10, 2, 4, 1, 0⟩, ⟨1, 0⟩⟩⟩,
   ⟨⟨10, 2, 4, 1, 0⟩, 3 / 2, ⟨⟨10, 2, 5, 1, 0⟩, ⟨1, 0⟩⟩⟩,
   ⟨⟨10, 2, 5, 1, 0⟩, -3 / 10, ⟨⟨10, 2, 6, 0, 1⟩, ⟨0, 0⟩⟩⟩,
   ⟨⟨10, 2, 6, 0, 1⟩, 3 / 10, ⟨⟨10, 2, 7, 0, 0⟩, ⟨0, 0⟩⟩⟩]

def wvRows3 : List TickRow :=
  [⟨⟨10, 2, 7, 0, 0⟩, 39999 / 100000, ⟨⟨10, 2, 8, 0, 0⟩, ⟨0, 1⟩⟩⟩,
   ⟨⟨10, 2, 0, 0, 0⟩, 1 / 50, ⟨⟨10, 2, 1, 0, 0⟩, ⟨0, 1⟩⟩⟩,
   ⟨⟨100, 2, 0, 0, 0⟩, 1 / 50, ⟨⟨100, 2, 1, 1, 1⟩, ⟨0, 0⟩⟩⟩,
   ⟨⟨100, 2, 97, 1, 0⟩, 49 / 50, ⟨⟨100, 2, 98, 1, 0⟩, ⟨1, 0⟩⟩⟩,
   ⟨⟨100, 2, 98, 1, 0⟩, 49 / 50, ⟨⟨100, 2, 99, 0, 1⟩, ⟨0, 0⟩⟩⟩,
   ⟨⟨2, 1, 0, 0, 0⟩, 1 / 2, ⟨⟨2, 1, 1, 1, 0⟩, ⟨0, 0⟩⟩⟩,
   ⟨⟨2, 1, 1, 1, 0⟩, 1 / 2, ⟨⟨2, 1, 0, 0, 0⟩, ⟨0, 0⟩⟩⟩,
   ⟨⟨1, 0, 0, 0, 0⟩, 1 / 2, ⟨⟨2, 0, 1, 0, 0⟩, ⟨1, 0⟩⟩⟩]

/-- 95_test_vectors.md WV1 to WV24: the fields before, the duty, the fields after and the gate bits. -/
def wvRows : List TickRow := wvRows1 ++ wvRows2 ++ wvRows3

theorem test_ctrlStep_vectors :
    cvRows.all (fun r => ctrlStep ⟨r.kp, r.ki, r.ts, 0, r.vref, 0⟩ ⟨r.integ⟩ r.v == (⟨r.newInteg⟩, r.duty)) = true := by
  decide +kernel

theorem test_pwmInit_vectors :
    ivRows.all (fun r => pwmInit ⟨0, 0, r.ts, r.fsw, 0, r.deadtime⟩ == ⟨r.period, r.dead, 0, 0, 0⟩) = true := by
  decide +kernel

theorem test_pwmStep_vectors : wvRows.all (fun r => pwmStep r.before r.duty == r.after) = true := by decide +kernel

/-- GV2, the first five ticks: the swallowed pulse and the window that restarts (41_pwm_generator.md R78). -/
theorem test_pwmGates_swallowed_pulse :
    pwmGates ⟨10, 3, 0, 0, 0⟩ (List.replicate 5 (1 / 10)) = [⟨0, 0⟩, ⟨0, 0⟩, ⟨0, 0⟩, ⟨0, 0⟩, ⟨0, 1⟩] := by
  decide +kernel

/-! ## Witnesses: for each statement with hypotheses, values that meet them together -/

/-- An instance that has been initialised and stepped meets the invariant (PG1 after command 4). -/
theorem witness_inv : (stateOf (fields (3 / 20) 10 2 3 1 0)).Inv where
  regs r hr := by
    cases hr
    exact ⟨⟨by decide +kernel, by decide +kernel⟩,
      ⟨by decide, by decide, by decide, by decide, by decide, by decide, by decide, by decide⟩,
      by decide +kernel, by decide +kernel, by decide⟩
  responses o ho := by cases ho

theorem witness_DecodeAndEncodeAgree :
    Command.wellFormed ⟨0b11#2, 1, 2, 3, 4⟩ = true ∧ decode ⟨0b11#2, 1, 2, 3, 4⟩ = .instr .term ∧ decode ⟨0b10#2, 1, 2, 3, 4⟩ = .instr (.step 1 2 3 4) ∧
    (⟨0b11#2, 1, 2, 3, 4⟩ : Command).op = (⟨0b11#2, 0, 0, 0, 0⟩ : Command).op ∧
    (⟨0b11#2, 1, 2, 3, 4⟩ : Command).op ≠ 0b10#2 := by decide +kernel

theorem witness_StepRunsDecodedCommand :
    ((issued 1).pending = tableCommand 8 1 :: [] ∧ decode (tableCommand 8 1) = .instr .init) ∧
    ((issued 0).pending = tableCommand 8 0 :: [] ∧ decode (tableCommand 8 0) = .reservedOp) ∧
    (State.powerOn pg1P none).pending = [] := by decide +kernel

theorem witness_PortRunsOperationsInIssueOrder : (State.powerOn pg1P none).pending = [] := rfl

/-- Unbounded and 4-bit counters, and both branches of both tests: with and without valid timing and deadtime. -/
theorem witness_InitWritesResetTable :
    fitsWidth none (periodCounts pg1P) = true ∧ fitsWidth (some 4) (periodCounts pg1P) = true ∧ (0 < pg1P.Ts ∧ 0 < pg1P.fsw) ∧ (0 < pg1P.deadtime_s ∧ 0 < pg1P.Ts) ∧
    ¬(0 < (withFsw 0).Ts ∧ 0 < (withFsw 0).fsw) ∧ ¬(0 < (withDeadtime 0).deadtime_s ∧ 0 < (withDeadtime 0).Ts) := by
  decide +kernel

theorem witness_InitAbsorbsDegenerateConfiguration :
    FitsWidth none (withFsw 0) ∧ ((withFsw 0).Ts ≤ 0 ∨ (withFsw 0).fsw ≤ 0) ∧ FitsWidth none (withDeadtime 0) ∧
    ((withDeadtime 0).Ts ≤ 0 ∨ (withDeadtime 0).deadtime_s ≤ 0) := by
  exact ⟨rfl, .inr (by decide +kernel), rfl, .inr (by decide +kernel)⟩

/-- The boundary: half a tick is on, 0.49 of a tick is off (IV13, IV14). -/
theorem witness_DeadtimeOnExactlyFromHalfTick :
    DeadtimeOn (withDeadtime (5 / 1000000)) ∧ ¬DeadtimeOn (withDeadtime (49 / 10000000)) := by
  unfold DeadtimeOn; decide +kernel

/-- Valid timing with exact and inexact quotients; and fsw = 0 with 2 whole ticks of deadtime under the default period. -/
theorem witness_NominalTimingIsExactOnlyOnWholeTicks :
    (0 < pg1P.Ts ∧ 0 < pg1P.fsw) ∧ 0 < pg1P.deadtime_s ∧ (periodCounts pg1P : NUM) * pg1P.Ts = 1 / pg1P.fsw ∧
    (periodCounts (withFsw 40000) : NUM) * pg1P.Ts ≠ 1 / 40000 ∧
    (0 < (withFsw 0).Ts ∧ 0 < (withFsw 0).deadtime_s) ∧
    (deadCounts (withFsw 0) (periodCounts (withFsw 0)) : NUM) * (withFsw 0).Ts = (withFsw 0).deadtime_s := by
  decide +kernel

/-- The boundary: period_counts 10 against widths 3 (7 is less), 4 (15 is more), and 7 = 2^3 - 1 exactly. -/
theorem witness_InitRefusedExactlyWhenTooWide :
    (State.powerOn pg1P (some 3)).wCnt = some 3 ∧ 2 ^ 3 - 1 < periodCounts pg1P ∧ periodCounts pg1P ≤ 2 ^ 4 - 1 ∧
    periodCounts (withFsw (100000 / 7)) = 2 ^ 3 - 1 := by decide +kernel

theorem witness_ReinitDiscardsHistory :
    FitsWidth none pg1P ∧ runInstrs [.term, .init] (State.powerOn pg1P none) =
      .next ((State.powerOn pg1P none).setRegs (Regs.initial pg1P)) := ⟨rfl, rfl⟩

theorem witness_RoundIsNearestTiesAway : |(5 / 2 : NUM) - (3 : Int)| = 1 / 2 ∧ Machine.round (5 / 2) = 3 := by
  constructor
  · norm_num [abs_of_neg]
  · decide +kernel

theorem witness_StepResultWithoutDeadtime :
    (stateOf (fields 0 10 0 9 0 0)).regs = some (fields 0 10 0 9 0 0) ∧ (fields 0 10 0 9 0 0).pwm.dead_counts ≤ 0 ∧
    (fields 0 1 (-1) 9 0 0).pwm.dead_counts ≤ 0 := by decide +kernel

theorem witness_StepResultWithDeadtime :
    (stateOf (fields 0 10 1 9 0 0)).regs = some (fields 0 10 1 9 0 0) ∧ 0 < (fields 0 10 1 9 0 0).pwm.dead_counts := by
  decide +kernel

theorem witness_StepReadsOnlyFieldsAndVout :
    (stateOf (fields 0 10 2 0 0 0)).P = { stateOf (fields 0 10 2 0 0 0) with responses := [⟨1, 0⟩] }.P ∧
    (stateOf (fields 0 10 2 0 0 0)).regs = some (fields 0 10 2 0 0 0) ∧
    { stateOf (fields 0 10 2 0 0 0) with responses := [⟨1, 0⟩] }.regs = some (fields 0 10 2 0 0 0) := by
  decide +kernel

theorem witness_ControllerReadsNothingOfPwm :
    (stateOf (fields 0 10 2 0 0 0)).regs = some (fields 0 10 2 0 0 0) ∧
    { stateOf (fields 0 7 3 1 1 2) with P := withFsw 0 }.regs = some (fields 0 7 3 1 1 2) ∧
    pg1P.Vref = (withFsw 0).Vref ∧ pg1P.Ki = (withFsw 0).Ki ∧ pg1P.Ts = (withFsw 0).Ts ∧ pg1P.Kp = (withFsw 0).Kp ∧
    (fields 0 10 2 0 0 0).ctrl = (fields 0 7 3 1 1 2).ctrl := by decide +kernel

theorem witness_IntegratorStaysClamped :
    (stateOf (fields (-3) 10 2 0 0 0)).regs = some (fields (-3) 10 2 0 0 0) ∧ [#v[(0 : NUM), 0, 0, 0]] ≠ [] ∧
    FitsWidth none pg1P := ⟨rfl, by simp, rfl⟩

theorem witness_SteadyStateHoldsFromFirstStep :
    (0 ≤ (⟨0⟩ : Controller).integ ∧ (⟨0⟩ : Controller).integ ≤ 1) ∧
    (0 ≤ (⟨1⟩ : Controller).integ ∧ (⟨1⟩ : Controller).integ ≤ 1) ∧
    (fun k : Controller => (ctrlStep pg1P k pg1P.Vref).1)^[1] ⟨3 / 20⟩ = ⟨3 / 20⟩ := by
  refine ⟨by decide +kernel, by decide +kernel, ?_⟩
  show (ctrlStep pg1P ⟨3 / 20⟩ pg1P.Vref).1 = ⟨3 / 20⟩
  decide +kernel

/-- Deadtime off, an armed counter of 0, and an armed counter of 1. -/
theorem witness_ComplementaryUnlessBlanked :
    (⟨10, 0, 0, 0, 0⟩ : PwmGen).dead_counts ≤ 0 ∧
    (rawOf ⟨10, 1, 5, 0, 0⟩ (1 / 2) = 0 ∧ (⟨10, 1, 5, 0, 0⟩ : PwmGen).dt_counter ≤ 0) ∧
    (rawOf ⟨10, 1, 5, 1, 0⟩ (1 / 2) ≠ 1 ∧ 0 < (⟨10, 1, 5, 1, 0⟩ : PwmGen).dead_counts) := by decide +kernel

/-- Both ends of the duty's range at the smallest period, and a duty below one count. -/
theorem witness_OnCountsRange :
    (2 : Int) ≤ 2 ∧ (1 / 50 : NUM) ≤ 1 / 50 ∧ (1 / 50 : NUM) ≤ 49 / 50 ∧ (49 / 50 : NUM) ≤ 49 / 50 ∧
    (1 / 50 : NUM) * (2 : Int) < 1 := by decide +kernel

/-- Periods 2 and 1, and deadtime off. -/
theorem witness_TickFrame :
    (2 : Int) ≤ (⟨2, 0, 0, 0, 0⟩ : PwmGen).period_counts ∧ (⟨1, 0, 0, 0, 0⟩ : PwmGen).period_counts < 2 ∧
    (⟨1, 0, 0, 0, 0⟩ : PwmGen).dead_counts ≤ 0 := by decide

theorem witness_OperationFrame :
    (∃ t, exec .init (State.powerOn pg1P none) = .next t) ∧
    (∃ t, exec (.step 0 0 0 0) (stateOf (fields 0 2 0 0 0 0)) = .next t) ∧
    (∃ t, exec .term (State.powerOn pg1P none) = .next t) := ⟨⟨_, rfl⟩, ⟨_, rfl⟩, ⟨_, rfl⟩⟩

theorem witness_CounterFollowsTicks : FitsWidth (some 4) pg1P := by unfold FitsWidth; decide +kernel

theorem witness_CarrierIndependentOfInputs :
    (stateOf (fields 0 10 2 9 0 0)).regs = some (fields 0 10 2 9 0 0) ∧
    [#v[(0 : NUM), 0, 0, 0]].length = [#v[(0 : NUM), 0, 9, 0]].length := ⟨rfl, rfl⟩

/-- The last tick of a period, and both ends of the duty's range. -/
theorem witness_RawOnTicksPerPeriod :
    (2 ≤ (⟨10, 2, 9, 0, 0⟩ : PwmGen).period_counts ∧ 0 ≤ (⟨10, 2, 9, 0, 0⟩ : PwmGen).cnt ∧
      (⟨10, 2, 9, 0, 0⟩ : PwmGen).cnt < (⟨10, 2, 9, 0, 0⟩ : PwmGen).period_counts) ∧
    ((0 : NUM) ≤ 0 ∧ (0 : NUM) ≤ 1) ∧ ((0 : NUM) ≤ 1 ∧ (1 : NUM) ≤ 1) := by decide +kernel

/-- GV1, ticks 5 to 7: the falling edge and the one tick after it; and the edge of the first tick after INIT. -/
theorem witness_EveryEdgeOpensBlankingWindow :
    (0 < (⟨10, 2, 4, 1, 0⟩ : PwmGen).dead_counts ∧
      rawOf (pwmStep ⟨10, 2, 4, 1, 0⟩ (1 / 2)).1 (1 / 2) ≠ rawOf ⟨10, 2, 4, 1, 0⟩ (1 / 2) ∧
      ([1 / 2].length : Int) < (⟨10, 2, 4, 1, 0⟩ : PwmGen).dead_counts) ∧
    (0 < deadCounts pg1P (periodCounts pg1P) ∧ rawOf (pwmInit pg1P) (1 / 2) ≠ 0 ∧
      ([1 / 2].length : Int) < (pwmInit pg1P).dead_counts) := by decide +kernel

/-- GV1, ticks 6 to 8: the falling edge, one blanked tick more, then the low side on. -/
theorem witness_BlankingWindowEnds :
    0 < (⟨10, 2, 5, 1, 0⟩ : PwmGen).dead_counts ∧
    rawOf ⟨10, 2, 5, 1, 0⟩ (1 / 2) ≠ (⟨10, 2, 5, 1, 0⟩ : PwmGen).last_raw_u ∧
    (∀ b ∈ pwmRaws (pwmStep ⟨10, 2, 5, 1, 0⟩ (1 / 2)).1 ([1 / 2] ++ [1 / 2]), b = rawOf ⟨10, 2, 5, 1, 0⟩ (1 / 2)) ∧
    (⟨10, 2, 5, 1, 0⟩ : PwmGen).dead_counts ≤ [(1 / 2 : NUM)].length + 1 := by decide +kernel

/-- Deadtime at its cap, and on_counts 1 and P - 1. -/
theorem witness_SteadyPatternOfOnePeriod :
    2 ≤ (⟨10, 5, 0, 0, 0⟩ : PwmGen).period_counts ∧ 0 < (⟨10, 5, 0, 0, 0⟩ : PwmGen).dead_counts ∧
    (⟨10, 5, 0, 0, 0⟩ : PwmGen).dead_counts ≤ (⟨10, 5, 0, 0, 0⟩ : PwmGen).period_counts / 2 ∧
    Machine.floor ((1 / 10 : NUM) * (10 : Int)) = 1 ∧ Machine.floor ((49 / 50 : NUM) * (10 : Int)) = 9 := by
  decide +kernel

theorem witness_SteadyPatternAtExtremes :
    2 ≤ (⟨2, 1, 0, 0, 0⟩ : PwmGen).period_counts ∧ 0 < (⟨2, 1, 0, 0, 0⟩ : PwmGen).dead_counts ∧
    (⟨2, 1, 0, 0, 0⟩ : PwmGen).dead_counts ≤ (⟨2, 1, 0, 0, 0⟩ : PwmGen).period_counts / 2 ∧
    (49 / 100 : NUM) * (2 : Int) < 1 ∧ (1 : NUM) ≤ 1 := by decide +kernel

theorem witness_NoDeadtimePath :
    (⟨10, 0, 0, 0, 0⟩ : PwmGen).dead_counts = 0 ∧ (withDeadtime 0).deadtime_s ≤ 0 ∧
    ({ pg1P with Ts := 0 } : Params).Ts ≤ 0 ∧
    (withDeadtime (49 / 10000000)).deadtime_s / (withDeadtime (49 / 10000000)).Ts < 1 / 2 := by decide +kernel

/-- PG1's first STEP has on_counts 5; at Vref it has on_counts 0. -/
theorem witness_FirstTickAfterInit :
    fitsWidth none (periodCounts pg1P) = true ∧ 0 < deadCounts pg1P (periodCounts pg1P) ∧
    1 ≤ (ctrlStep pg1P ctrlInit 0).2 * periodCounts pg1P ∧ (ctrlStep pg1P ctrlInit 5).2 * periodCounts pg1P < 1 := by
  decide +kernel

theorem witness_EveryStepKeepsInvariant :
    ∃ t, ((stateOf (fields (3 / 20) 10 2 3 1 0)).withFetchWord 8 2).Inv ∧
      step ((stateOf (fields (3 / 20) 10 2 3 1 0)).withFetchWord 8 2) = .next t :=
  ⟨_, ⟨witness_inv.regs, witness_inv.responses⟩, rfl⟩

theorem witness_StepsNeverTouchParameters : ∃ t, step (issued 1) = .next t := ⟨_, rfl⟩

/-- Each refusal of the closed list is reached. -/
theorem witness_StopsAreExactlyTheClosedList :
    step (issued 0) = .refused .reservedOp ∧ step (issued 2) = .refused .stepBeforeInit ∧
    refusalOf (step ((State.powerOn pg1P (some 3)).withFetchWord 8 1)) = some .counterWidth :=
  ⟨rfl, rfl, test_init_counter_width⟩

/-- The tight width: period_counts 7 in 3 bits. -/
theorem witness_CountersFitTheirWidth :
    (Regs.Inv (withFsw (100000 / 7)) (some 3) (fields 1 7 2 6 0 1)) :=
  ⟨⟨by decide +kernel, by decide +kernel⟩,
    ⟨by decide, by decide, by decide, by decide, by decide, by decide, by decide, by decide⟩,
    by decide +kernel, by decide +kernel, by decide⟩

theorem witness_ContractRunIsSafe :
    FitsWidth none pg1P ∧ ContractHost [.init, .step 0 0 5 0, .term] := ⟨rfl, [#v[0, 0, 5, 0]], rfl⟩

/-- PG1's command 2, a blanked tick, and command 4, one that is not; the fields of command 4 meet the invariant. -/
theorem witness_StepKeepsInsideHalves :
    (stateOf (fields 0 10 2 0 0 0)).regs = some (fields 0 10 2 0 0 0) ∧
    (stateOf (fields (1 / 10) 10 2 2 1 0)).regs = some (fields (1 / 10) 10 2 2 1 0) ∧
    0 < (fields (1 / 10) 10 2 2 1 0).pwm.dead_counts ∧ (fields (1 / 10) 10 2 2 1 0).pwm.Inv :=
  ⟨rfl, rfl, by decide,
    by decide, by decide, by decide, by decide, by decide, by decide, by decide, by decide⟩

end Sys2Proof.Tests
end

section
/-! PROOF. The command port: decoding undoes encoding, what a step does with each shape of the waiting list, and that no
operation looks at the commands that wait behind it (00_scope.md R17, 20_memory.md R45, R47). -/

namespace Sys2Proof.Machine

@[simp] theorem decode_encode (i : Instr) : decode (encode i) = .instr i := by
  cases i <;> simp [decode, encode, opInit, opStep, opTerm]

theorem step_of_nil {s : State} (h : s.pending = []) : step s = .next s := by
  simp [step, fetch, h]

theorem step_of_instr {s : State} {c : Command} {rest : List Command} {i : Instr}
    (hp : s.pending = c :: rest) (hd : decode c = .instr i) : step s = exec i (s.setPending rest) := by
  simp [step, fetch, hp, hd]

theorem step_of_reservedOp {s : State} {c : Command} {rest : List Command}
    (hp : s.pending = c :: rest) (hd : decode c = .reservedOp) : step s = .refused .reservedOp := by
  simp [step, fetch, hp, hd]

/-- Settles O3, from the step's equation for each shape of the waiting list. -/
theorem stepRunsDecodedCommand : Obligations.StepRunsDecodedCommand :=
  ⟨fun _ _ _ _ hp hd => step_of_instr hp hd, fun _ _ _ hp hd => step_of_reservedOp hp hd,
    fun _ hp => step_of_nil hp⟩

/-- The block raises no exception (60_exceptions.md R100): an outcome is a next state or a refusal. -/
theorem outcome_cases (o : Host.Outcome State Fault Refusal) :
    (∃ t, o = .next t) ∨ ∃ x, o = .refused x := by
  cases o with
  | next t => exact .inl ⟨t, rfl⟩
  | fault f => cases f
  | refused x => exact .inr ⟨x, rfl⟩

theorem exec_init_of_not_fits {s : State} (h : ¬ FitsWidth s.wCnt s.P) :
    exec .init s = .refused .counterWidth := by
  simp only [FitsWidth] at h
  simp [exec, execInit, h]

theorem exec_step_of_no_regs {s : State} (h : s.regs = none) (a b v d : NUM) :
    exec (.step a b v d) s = .refused .stepBeforeInit := by
  simp [exec, execStep, h]

/-- Everything that can have refused an operation (60_exceptions.md R105). -/
theorem exec_refused_cases {i : Instr} {s : State} {x : Refusal} (h : exec i s = .refused x) :
    (i = .init ∧ ¬ FitsWidth s.wCnt s.P ∧ x = .counterWidth) ∨
    (∃ a b v d, i = .step a b v d ∧ s.regs = none ∧ x = .stepBeforeInit) := by
  cases i with
  | init =>
    by_cases hf : FitsWidth s.wCnt s.P
    · rw [exec_init_of_fits hf] at h
      cases h
    · rw [exec_init_of_not_fits hf] at h
      cases h
      exact .inl ⟨rfl, hf, rfl⟩
  | step a b v d =>
    cases hr : s.regs with
    | none =>
      rw [exec_step_of_no_regs hr] at h
      cases h
      exact .inr ⟨a, b, v, d, rfl, rfl, rfl⟩
    | some r =>
      rw [exec_step_of_regs hr] at h
      cases h
  | term => cases h

theorem exec_next_pending {i : Instr} {s t : State} (h : exec i s = .next t) : t.pending = s.pending := by
  obtain ⟨-, -, rfl⟩ | ⟨_, _, _, _, _, -, -, rfl⟩ | ⟨-, rfl⟩ := exec_next_cases h <;> rfl

/-- An operation that completes does the same with other commands waiting, and leaves those waiting. -/
theorem exec_setPending_of_next {i : Instr} {s t : State} (h : exec i s = .next t) (cs : List Command) :
    exec i (s.setPending cs) = .next (t.setPending cs) := by
  obtain ⟨rfl, hf, rfl⟩ | ⟨a, b, v, d, r, rfl, hr, rfl⟩ | ⟨rfl, rfl⟩ := exec_next_cases h
  · exact exec_init_of_fits (s := s.setPending cs) hf
  · exact exec_step_of_regs (s := s.setPending cs) hr a b v d
  · rfl

/-- A refused operation is refused for the same reason whatever commands wait. -/
theorem exec_setPending_of_refused {i : Instr} {s : State} {x : Refusal} (h : exec i s = .refused x)
    (cs : List Command) : exec i (s.setPending cs) = .refused x := by
  obtain ⟨rfl, hf, rfl⟩ | ⟨a, b, v, d, rfl, hr, rfl⟩ := exec_refused_cases h
  · exact exec_init_of_not_fits (s := s.setPending cs) hf
  · exact exec_step_of_no_regs (s := s.setPending cs) hr a b v d

theorem core_run_of_next {s t : State} (h : step s = .next t) (n : Nat) :
    Host.Core.run core (n + 1) s = Host.Core.run core n t := by
  simp only [Host.Core.run, core, h]

theorem core_run_of_refused {s : State} {x : Refusal} (h : step s = .refused x) (n : Nat) :
    Host.Core.run core (n + 1) s = .refused x := by
  simp only [Host.Core.run, core, h]

theorem runInstrs_cons_of_refused {i : Instr} {s : State} {x : Refusal} (h : exec i s = .refused x)
    (is : List Instr) : runInstrs (i :: is) s = .refused x := by
  simp [runInstrs, h]

theorem step_encode_cons (i : Instr) (s : State) (cs : List Command) :
    step (s.setPending (encode i :: cs)) = exec i (s.setPending cs) :=
  step_of_instr (s := s.setPending (encode i :: cs)) rfl (decode_encode i)

theorem core_run_encode_eq_runInstrs (is : List Instr) {s : State} (hs : s.pending = []) :
    Host.Core.run core is.length (s.setPending (is.map encode)) = runInstrs is s := by
  induction is generalizing s with
  | nil =>
    have hsame : s.setPending [] = s := by rw [← hs]; rfl
    exact congrArg Host.Outcome.next hsame
  | cons i is ih =>
    have hstep := step_encode_cons i s (is.map encode)
    rcases outcome_cases (exec i s) with ⟨t, ht⟩ | ⟨x, hx⟩
    · rw [exec_setPending_of_next ht] at hstep
      have hrest := ih ((exec_next_pending ht).trans hs)
      exact (core_run_of_next hstep _).trans (hrest.trans (runInstrs_cons_of_next ht is).symm)
    · rw [exec_setPending_of_refused hx] at hstep
      exact (core_run_of_refused hstep _).trans (runInstrs_cons_of_refused hx is).symm

/-- Settles O4, by induction on the operations: one step of the port is one operation, blind to the commands behind it. -/
theorem portRunsOperationsInIssueOrder : Obligations.PortRunsOperationsInIssueOrder :=
  fun is _ hs => core_run_encode_eq_runInstrs is hs

end Sys2Proof.Machine
end

section
/-! PROOF. Counters of w bits: what fits them, the period that INIT derives in the library's own floor and max, and the
counts of fields that meet the invariant (00_scope.md R8, 41_pwm_generator.md R70). -/

namespace Sys2Proof.Machine

@[simp] theorem fitsWidth_some_iff {w : Nat} {n : Int} : fitsWidth (some w) n = true ↔ n ≤ 2 ^ w - 1 := by
  simp [fitsWidth]

/-- I1 of PWM.INIT (41_pwm_generator.md R70): the argument of round is positive where the test passes. -/
theorem periodCounts_eq (P : Params) :
    periodCounts P = if 0 < P.Ts ∧ 0 < P.fsw then max 2 ⌊1 / (P.fsw * P.Ts) + 1 / 2⌋ else 100 := by
  unfold periodCounts
  split
  · next h =>
    obtain ⟨hTs, hfsw⟩ := h
    rw [round_of_nonneg (by positivity), periodMin]
  · rfl

/-- Settles O9: the test of INIT is the bound of the width on the period of R70. -/
theorem initRefusedExactlyWhenTooWide : Obligations.InitRefusedExactlyWhenTooWide := by
  intro s w hw
  have hfits : FitsWidth s.wCnt s.P ↔ periodCounts s.P ≤ 2 ^ w - 1 := by
    rw [hw, FitsWidth, fitsWidth_some_iff]
  rw [← periodCounts_eq]
  refine ⟨fun hwide => ?_, fun hfit => ?_⟩
  · exact exec_init_of_not_fits (mt hfits.mp (not_le.mpr hwide))
  · exact ⟨Regs.initial s.P, exec_init_of_fits (hfits.mpr hfit), rfl⟩

/-- Settles O42: period_counts fits the width, and the invariant bounds the three other counts by it. -/
theorem countersFitTheirWidth : Obligations.CountersFitTheirWidth := by
  intro P w r hr
  obtain ⟨hperiod, hdead, hcap, hcnt, hwrap, hdt, hwindow, -⟩ := hr.pwm
  rw [div2_eq] at hcap
  have hwidth : r.pwm.period_counts ≤ 2 ^ w - 1 := fitsWidth_some_iff.mp hr.width
  refine ⟨⟨?_, ?_⟩, ⟨?_, ?_⟩, ⟨?_, ?_⟩, ?_, ?_⟩ <;> omega

end Sys2Proof.Machine
end

section
/-! PROOF. round is odd, so what it does to the nonnegative numbers, where it is `⌊x + 1/2⌋`, settles every number
(00_scope.md R12). -/

namespace Sys2Proof.Machine

theorem round_neg_of_pos {x : NUM} (h : 0 < x) : round (-x) = -round x := by
  have hneg : ¬ 0 ≤ -x := by linarith
  simp [round, h.le, hneg]

theorem round_neg (x : NUM) : round (-x) = -round x := by
  rcases lt_trichotomy x 0 with hx | rfl | hx
  · have := round_neg_of_pos (neg_pos.mpr hx)
    rw [neg_neg] at this
    rw [this, neg_neg]
  · have hzero : round 0 = 0 := by rw [round_of_nonneg le_rfl]; norm_num
    rw [neg_zero, hzero, neg_zero]
  · exact round_neg_of_pos hx

theorem abs_sub_round_le_of_nonneg {x : NUM} (h : 0 ≤ x) : |x - round x| ≤ 1 / 2 := by
  rw [round_of_nonneg h, abs_le]
  have hle := Int.floor_le (x + 1 / 2)
  have hlt := Int.lt_floor_add_one (x + 1 / 2)
  constructor <;> linarith

theorem abs_sub_round_le (x : NUM) : |x - round x| ≤ 1 / 2 := by
  rcases le_total 0 x with hx | hx
  · exact abs_sub_round_le_of_nonneg hx
  · have h := abs_sub_round_le_of_nonneg (neg_nonneg.mpr hx)
    rwa [round_neg, Int.cast_neg, neg_sub_neg, abs_sub_comm] at h

/-- Of the integers at distance at most 1/2 from a nonnegative number, round is the largest in absolute value. -/
theorem abs_le_round_of_nonneg {x : NUM} (hx : 0 ≤ x) {n : Int} (hn : |x - n| ≤ 1 / 2) : |n| ≤ round x := by
  obtain ⟨hlo, hhi⟩ := abs_le.mp hn
  rw [round_of_nonneg hx, abs_le']
  constructor <;> rw [Int.le_floor] <;> push_cast <;> linarith

theorem abs_le_abs_round {x : NUM} {n : Int} (hn : |x - n| ≤ 1 / 2) : |n| ≤ |round x| := by
  rcases le_total 0 x with hx | hx
  · exact (abs_le_round_of_nonneg hx hn).trans (le_abs_self _)
  · have hn' : |-x - (-n : Int)| ≤ 1 / 2 := by rwa [Int.cast_neg, neg_sub_neg, abs_sub_comm]
    have h := abs_le_round_of_nonneg (neg_nonneg.mpr hx) hn'
    rw [abs_neg, round_neg] at h
    exact h.trans (neg_le_abs _)

/-- Settles O11: the tie clause is the case of distance exactly 1/2. -/
theorem roundIsNearestTiesAway : Obligations.RoundIsNearestTiesAway :=
  fun x => ⟨abs_sub_round_le x, fun _ hn => mod_cast abs_le_abs_round hn.le, round_neg x⟩

end Sys2Proof.Machine
end

section
/-! PROOF. One STEP as its parts see it: the two components of a tick, the Controller's ranges, and the three things
PWM.STEP can do with the flag, the blanking counter and the gates (40_controller.md R62, R63,
41_pwm_generator.md R73). -/

namespace Sys2Proof.Machine

@[simp] theorem tick_ctrl (P : Params) (r : Regs) (v : NUM) :
    (tick P r v).1.ctrl = (ctrlStep P r.ctrl v).1 := rfl
@[simp] theorem tick_pwm (P : Params) (r : Regs) (v : NUM) :
    (tick P r v).1.pwm = (pwmStep r.pwm (ctrlStep P r.ctrl v).2).1 := rfl
@[simp] theorem tick_gates (P : Params) (r : Regs) (v : NUM) :
    (tick P r v).2 = (pwmStep r.pwm (ctrlStep P r.ctrl v).2).2 := rfl

theorem clamp_num_bounds {x lo hi : NUM} (h : lo ≤ hi) : lo ≤ clamp x lo hi ∧ clamp x lo hi ≤ hi := by
  rw [clamp_num h]
  exact ⟨le_max_left _ _, max_le h (min_le_left _ _)⟩

/-- 40_controller.md R62: integ is in its range after CTRL.STEP, whatever it was before. -/
theorem ctrlStep_integ_bounds (P : Params) (c : Controller) (v : NUM) :
    0 ≤ (ctrlStep P c v).1.integ ∧ (ctrlStep P c v).1.integ ≤ 1 :=
  clamp_num_bounds (show integLo ≤ integHi by norm_num [integLo, integHi])

/-- 40_controller.md R63. -/
theorem ctrlStep_duty_bounds (P : Params) (c : Controller) (v : NUM) :
    1 / 50 ≤ (ctrlStep P c v).2 ∧ (ctrlStep P c v).2 ≤ 49 / 50 :=
  clamp_num_bounds (show dutyLo ≤ dutyHi by norm_num [dutyLo, dutyHi])

/-- S2: the clamp moves nothing while the duty is in [0, 1] (41_pwm_generator.md R74). -/
theorem onCounts_eq_floor {period : Int} {duty : NUM} (hperiod : 0 ≤ period) (h0 : 0 ≤ duty) (h1 : duty ≤ 1) :
    onCounts period duty = ⌊duty * period⌋ := by
  have hp : (0 : NUM) ≤ period := mod_cast hperiod
  have hlo : 0 ≤ ⌊duty * period⌋ := Int.floor_nonneg.mpr (mul_nonneg h0 hp)
  have hhi : ⌊duty * period⌋ ≤ period :=
    Int.cast_le.mp ((Int.floor_le _).trans (mul_le_of_le_one_left hp h1))
  rw [onCounts, clamp_int hperiod, floor_eq, min_eq_right hhi, max_eq_right hlo]

theorem rawOf_eq {g : PwmGen} {duty : NUM} (h0 : 0 ≤ duty) (h1 : duty ≤ 1) :
    rawOf g duty = if g.cnt < ⌊duty * (max 2 g.period_counts : Int)⌋ then 1#1 else 0#1 := by
  rw [rawOf, refloor_cnt, refloor_period, onCounts_eq_floor (by omega) h0 h1, rawHigh]

theorem armed_eq (g : PwmGen) (raw : BIT) :
    armed g raw = if raw = g.last_raw_u then g.dt_counter else g.dead_counts := by
  simp [armed, edge]

/-- Everything PWM.STEP can do with the flag, the blanking counter and the gates: S5, a blanked tick, or S4c. -/
theorem pwmStep_cases (g : PwmGen) (duty : NUM) :
    (g.dead_counts ≤ 0 ∧ (pwmStep g duty).1.last_raw_u = g.last_raw_u ∧
      (pwmStep g duty).1.dt_counter = g.dt_counter ∧ (pwmStep g duty).2 = emitRaw (rawOf g duty)) ∨
    (0 < g.dead_counts ∧ 0 < armed g (rawOf g duty) ∧ (pwmStep g duty).1.last_raw_u = rawOf g duty ∧
      (pwmStep g duty).1.dt_counter = armed g (rawOf g duty) - 1 ∧ (pwmStep g duty).2 = ⟨0#1, 0#1⟩) ∨
    (0 < g.dead_counts ∧ armed g (rawOf g duty) ≤ 0 ∧ (pwmStep g duty).1.last_raw_u = rawOf g duty ∧
      (pwmStep g duty).1.dt_counter = armed g (rawOf g duty) ∧ (pwmStep g duty).2 = emitRaw (rawOf g duty)) := by
  have hcases := drive_cases (refloor g) (rawOf g duty)
  simp only [refloor_dead, armed_refloor] at hcases
  obtain ⟨h, hd⟩ | ⟨h, ha, hd⟩ | ⟨h, ha, hd⟩ := hcases
  · exact .inl ⟨h, by simp [pwmStep, hd]⟩
  · exact .inr (.inl ⟨h, ha, by simp [pwmStep, hd]⟩)
  · exact .inr (.inr ⟨h, ha, by simp [pwmStep, hd]⟩)

theorem pwmStep_of_deadtime_off {g : PwmGen} (h : g.dead_counts ≤ 0) (duty : NUM) :
    (pwmStep g duty).1.last_raw_u = g.last_raw_u ∧ (pwmStep g duty).1.dt_counter = g.dt_counter := by
  obtain ⟨-, hlast, hdt, -⟩ | ⟨hon, -⟩ | ⟨hon, -⟩ := pwmStep_cases g duty
  · exact ⟨hlast, hdt⟩
  · omega
  · omega

end Sys2Proof.Machine
end

section
/-! PROOF. Frames: what an operation and a step leave unchanged (10_state.md R25, R26, R27, 42_lifecycle.md R90 to R92,
70_reset_and_hazards.md R122). -/

namespace Sys2Proof.Machine

theorem exec_init_next {s t : State} (h : exec .init s = .next t) : t = s.setRegs (Regs.initial s.P) := by
  obtain ⟨-, -, ht⟩ | ⟨_, _, _, _, _, hi, -⟩ | ⟨hi, -⟩ := exec_next_cases h
  · exact ht
  · cases hi
  · cases hi

theorem exec_step_next {a b v d : NUM} {s t : State} (h : exec (.step a b v d) s = .next t) :
    ∃ r, s.regs = some r ∧ t = (s.setRegs (tick s.P r v).1).respond (outVector (tick s.P r v).2) := by
  obtain ⟨hi, -⟩ | ⟨_, _, _, _, r, hi, hr, ht⟩ | ⟨hi, -⟩ := exec_next_cases h
  · cases hi
  · cases hi
    exact ⟨r, hr, ht⟩
  · cases hi

theorem exec_next_P {i : Instr} {s t : State} (h : exec i s = .next t) : t.P = s.P := by
  obtain ⟨-, -, rfl⟩ | ⟨_, _, _, _, _, -, -, rfl⟩ | ⟨-, rfl⟩ := exec_next_cases h <;> rfl

theorem exec_next_wCnt {i : Instr} {s t : State} (h : exec i s = .next t) : t.wCnt = s.wCnt := by
  obtain ⟨-, -, rfl⟩ | ⟨_, _, _, _, _, -, -, rfl⟩ | ⟨-, rfl⟩ := exec_next_cases h <;> rfl

theorem exec_next_responses {i : Instr} {s t : State} (h : exec i s = .next t) :
    t.responses = s.responses ∨ ∃ o, t.responses = s.responses ++ [o] := by
  obtain ⟨-, -, rfl⟩ | ⟨_, _, _, _, _, -, -, rfl⟩ | ⟨-, rfl⟩ := exec_next_cases h
  · exact .inl rfl
  · exact .inr ⟨_, rfl⟩
  · exact .inl rfl

/-- Settles O26, instruction by instruction; STEP's part is what PWM.STEP leaves of its five fields. -/
theorem operationFrame : Obligations.OperationFrame := by
  intro i s t h
  refine ⟨exec_next_P h, exec_next_wCnt h, exec_next_pending h, ?_, ?_, ?_⟩
  · rintro rfl
    rw [exec_init_next h, setRegs_responses]
  · rintro rfl
    cases h
    exact ⟨rfl, rfl⟩
  · rintro a b v d rfl
    obtain ⟨r, hr, rfl⟩ := exec_step_next h
    refine ⟨⟨_, rfl⟩, r, _, hr, rfl, pwmStep_dead _ _, fun hperiod => ?_, fun hoff => ?_⟩
    · rw [tick_pwm, pwmStep_period, max_eq_right hperiod]
    · exact pwmStep_of_deadtime_off hoff _

/-- Settles O40: a step is idle, or one operation on the state without its oldest command. -/
theorem stepsNeverTouchParameters : Obligations.StepsNeverTouchParameters := by
  intro s t h
  obtain ⟨hp, rfl⟩ | ⟨c, rest, i, hp, -, hexec⟩ := step_next_cases h
  · exact ⟨rfl, rfl, by rw [hp, List.tail_nil], .inl rfl⟩
  · have hP := exec_next_P hexec
    have hwCnt := exec_next_wCnt hexec
    have hpending := exec_next_pending hexec
    have hresponses := exec_next_responses hexec
    exact ⟨hP, hwCnt, by rw [hpending, setPending_pending, hp, List.tail_cons], hresponses⟩

end Sys2Proof.Machine
end

section
/-! PROOF. The invariant of 10_state.md R31: INIT establishes it, a tick keeps it, and so every step does. -/

namespace Sys2Proof.Machine

/-- 41_pwm_generator.md R71. -/
theorem two_le_periodCounts (P : Params) : 2 ≤ periodCounts P := by
  rw [periodCounts_eq]
  split
  · exact le_max_left _ _
  · norm_num

/-- 41_pwm_generator.md R72. -/
theorem deadCounts_bounds (P : Params) {period : Int} (h : 0 ≤ period) :
    0 ≤ deadCounts P period ∧ deadCounts P period ≤ div2 period := by
  have hhalf : 0 ≤ div2 period := by rw [div2_eq]; omega
  unfold deadCounts
  split
  · rw [clamp_int hhalf]
    omega
  · exact ⟨le_rfl, hhalf⟩

theorem pwmInit_inv (P : Params) : (pwmInit P).Inv := by
  have hperiod := two_le_periodCounts P
  obtain ⟨hdead, hcap⟩ := deadCounts_bounds P (show 0 ≤ periodCounts P by omega)
  exact
    { period_ge := hperiod
      dead_ge := hdead
      dead_le := hcap
      cnt_ge := le_rfl
      cnt_lt := show 0 < periodCounts P by omega
      dt_ge := le_rfl
      dt_le := le_max_right _ _
      flag_idle := fun _ => rfl }

theorem Regs.initial_inv {P : Params} {w : Option Nat} (h : FitsWidth w P) : (Regs.initial P).Inv P w where
  ctrl := ⟨le_rfl, zero_le_one⟩
  pwm := pwmInit_inv P
  period_eq := rfl
  dead_eq := rfl
  width := h

/-- INV5 inside a STEP: what S4a leaves in dt_counter. -/
theorem armed_bounds {g : PwmGen} (h : g.Inv) (raw : BIT) : 0 ≤ armed g raw ∧ armed g raw ≤ g.dead_counts := by
  have hdead := h.dead_ge
  have hdt := h.dt_ge
  have hwindow := h.dt_le
  rw [armed_eq]
  split <;> omega

theorem pwmStep_period_of_inv {g : PwmGen} (h : g.Inv) (duty : NUM) :
    (pwmStep g duty).1.period_counts = g.period_counts := by
  rw [pwmStep_period, max_eq_right h.period_ge]

/-- INV3: S6 wraps before the counter reaches the period. -/
theorem pwmStep_cnt_bounds {g : PwmGen} (h : g.Inv) (duty : NUM) :
    0 ≤ (pwmStep g duty).1.cnt ∧ (pwmStep g duty).1.cnt < g.period_counts := by
  have hperiod := h.period_ge
  have hcnt := h.cnt_ge
  rw [pwmStep_cnt, max_eq_right hperiod]
  split <;> omega

/-- INV5 between commands: a blanked tick uses up one of the at most dead_counts ticks it was armed with. -/
theorem pwmStep_dt_bounds {g : PwmGen} (h : g.Inv) (duty : NUM) :
    0 ≤ (pwmStep g duty).1.dt_counter ∧ (pwmStep g duty).1.dt_counter ≤ max (g.dead_counts - 1) 0 := by
  obtain ⟨harm, hcap⟩ := armed_bounds h (rawOf g duty)
  obtain ⟨-, -, hdt, -⟩ | ⟨-, hpos, -, hdt, -⟩ | ⟨-, hzero, -, hdt, -⟩ := pwmStep_cases g duty
  · rw [hdt]
    exact ⟨h.dt_ge, h.dt_le⟩
  · omega
  · omega

theorem pwmStep_inv {g : PwmGen} (h : g.Inv) (duty : NUM) : (pwmStep g duty).1.Inv := by
  have hperiod := pwmStep_period_of_inv h duty
  have hdead := pwmStep_dead g duty
  obtain ⟨hcnt, hwrap⟩ := pwmStep_cnt_bounds h duty
  obtain ⟨hdt, hwindow⟩ := pwmStep_dt_bounds h duty
  exact
    { period_ge := hperiod ▸ h.period_ge
      dead_ge := hdead ▸ h.dead_ge
      dead_le := by rw [hdead, hperiod]; exact h.dead_le
      cnt_ge := hcnt
      cnt_lt := hperiod ▸ hwrap
      dt_ge := hdt
      dt_le := hdead ▸ hwindow
      flag_idle := fun hoff => by
        rw [hdead] at hoff
        rw [(pwmStep_of_deadtime_off hoff.le duty).1, h.flag_idle hoff] }

theorem tick_inv {P : Params} {w : Option Nat} {r : Regs} (h : r.Inv P w) (v : NUM) :
    (tick P r v).1.Inv P w where
  ctrl := ctrlStep_integ_bounds P r.ctrl v
  pwm := pwmStep_inv h.pwm _
  period_eq := (pwmStep_period_of_inv h.pwm _).trans h.period_eq
  dead_eq := (pwmStep_dead _ _).trans h.dead_eq
  width := by rw [tick_pwm, pwmStep_period_of_inv h.pwm]; exact h.width

theorem emitRaw_legal (raw : BIT) : (outVector (emitRaw raw)).Legal := by
  rcases bit_cases raw with rfl | rfl
  · exact .inr (.inl rfl)
  · exact .inl rfl

/-- INV6 and INV7, from any fields. -/
theorem pwmStep_legal (g : PwmGen) (duty : NUM) : (outVector (pwmStep g duty).2).Legal := by
  obtain ⟨-, -, -, hout⟩ | ⟨-, -, -, -, hout⟩ | ⟨-, -, -, -, hout⟩ := pwmStep_cases g duty <;> rw [hout]
  · exact emitRaw_legal _
  · exact .inr (.inr rfl)
  · exact emitRaw_legal _

theorem State.Inv.setRegs {s : State} {r : Regs} (h : s.Inv) (hr : r.Inv s.P s.wCnt) : (s.setRegs r).Inv where
  regs _ hq := Option.some.inj hq ▸ hr
  responses := h.responses

theorem State.Inv.respond {s : State} {o : Response} (h : s.Inv) (ho : o.Legal) : (s.respond o).Inv where
  regs := h.regs
  responses := by
    rw [respond_responses]
    exact List.forall_mem_append.mpr ⟨h.responses, List.forall_mem_singleton.mpr ho⟩

theorem State.Inv.setPending {s : State} (h : s.Inv) (cs : List Command) : (s.setPending cs).Inv :=
  ⟨h.regs, h.responses⟩

theorem exec_keeps_inv {i : Instr} {s t : State} (hs : s.Inv) (h : exec i s = .next t) : t.Inv := by
  obtain ⟨-, hfits, rfl⟩ | ⟨a, b, v, d, r, -, hr, rfl⟩ | ⟨-, rfl⟩ := exec_next_cases h
  · exact hs.setRegs (Regs.initial_inv hfits)
  · exact (hs.setRegs (tick_inv (hs.regs r hr) v)).respond (pwmStep_legal _ _)
  · exact hs

/-- Settles O38: an idle step changes nothing, and every operation keeps the invariant. -/
theorem everyStepKeepsInvariant : Obligations.EveryStepKeepsInvariant := by
  intro s t hs h
  obtain ⟨-, rfl⟩ | ⟨c, rest, i, -, -, hexec⟩ := step_next_cases h
  · exact hs
  · exact exec_keeps_inv (hs.setPending rest) hexec

theorem State.powerOn_inv (P : Params) (w : Option Nat) : (State.powerOn P w).Inv where
  regs _ hr := nomatch hr
  responses _ ho := nomatch ho

/-- Settles O39: reset is power-on with the fields of INIT, which unbounded counters always fit. -/
theorem resetAndPowerOnMeetInvariant : Obligations.ResetAndPowerOnMeetInvariant :=
  ⟨(State.powerOn_inv Config.params none).setRegs (Regs.initial_inv rfl),
    fun P w => ⟨State.powerOn_inv P w, rfl⟩⟩

end Sys2Proof.Machine
end

section
/-! PROOF. The halves of INV5, INV7 and INV8 about the inside of one STEP (10_state.md R31, 41_pwm_generator.md R73). -/

namespace Sys2Proof.Machine

theorem outVector_emitRaw_ne_off (raw : BIT) : outVector (emitRaw raw) ≠ ⟨0#1, 0#1⟩ := by
  rcases bit_cases raw with rfl | rfl <;> decide

/-- INV8, second half. -/
theorem pwmStep_last_of_deadtime_on {g : PwmGen} (h : 0 < g.dead_counts) (duty : NUM) :
    (pwmStep g duty).1.last_raw_u = rawOf g duty := by
  obtain ⟨hoff, -⟩ | ⟨-, -, hlast, -⟩ | ⟨-, -, hlast, -⟩ := pwmStep_cases g duty
  · omega
  · exact hlast
  · exact hlast

/-- INV7: (0, 0) on exactly the blanking ticks, and the raw pair on every other. -/
theorem pwmStep_response_of_blanked {g : PwmGen} {duty : NUM}
    (h : 0 < g.dead_counts ∧ 0 < armed g (rawOf g duty)) : outVector (pwmStep g duty).2 = ⟨0#1, 0#1⟩ := by
  obtain ⟨hoff, -⟩ | ⟨-, -, -, -, hout⟩ | ⟨-, hzero, -⟩ := pwmStep_cases g duty
  · omega
  · rw [hout]
    rfl
  · omega

theorem pwmStep_response_of_not_blanked {g : PwmGen} {duty : NUM}
    (h : ¬(0 < g.dead_counts ∧ 0 < armed g (rawOf g duty))) :
    outVector (pwmStep g duty).2 = outVector (emitRaw (rawOf g duty)) := by
  obtain ⟨-, -, -, hout⟩ | ⟨hon, hpos, -⟩ | ⟨-, -, -, -, hout⟩ := pwmStep_cases g duty
  · rw [hout]
  · exact absurd ⟨hon, hpos⟩ h
  · rw [hout]

/-- Settles O44, by what PWM.STEP does with deadtime on, on a blanked tick and on any other; the Controller's duty is in
[0, 1], so the plain floor of the statement is on_counts. -/
theorem stepKeepsInsideHalves : Obligations.StepKeepsInsideHalves := by
  intro s r vin iin v iout hr
  obtain ⟨hlo, hhi⟩ := ctrlStep_duty_bounds s.P r.ctrl v
  dsimp only
  rw [← rawOf_eq (g := r.pwm) (by linarith) (by linarith), ← armed_eq]
  refine ⟨_, _, exec_step_of_regs hr vin iin v iout, fun hon => pwmStep_last_of_deadtime_on hon _,
    ⟨fun hzero => ?_, pwmStep_response_of_blanked⟩, pwmStep_response_of_not_blanked,
    fun hinv => armed_bounds hinv _⟩
  by_contra hraw
  exact outVector_emitRaw_ne_off _ ((pwmStep_response_of_not_blanked hraw).symm.trans hzero)

end Sys2Proof.Machine
end

section
/-! PROOF. The command word: what the decoder answers on each of the four codes, and from that how decoder and encoder
invert each other (30_encoding.md R51 to R55). -/

namespace Sys2Proof.Machine

theorem decode_of_opInit {c : Command} (h : c.op = opInit) : decode c = .instr .init := by
  simp [decode, h]

theorem decode_of_opStep {c : Command} (h : c.op = opStep) :
    decode c = .instr (.step c.in0 c.in1 c.in2 c.in3) := by
  simp [decode, h, opInit, opStep]

theorem decode_of_opTerm {c : Command} (h : c.op = opTerm) : decode c = .instr .term := by
  simp [decode, h, opInit, opStep, opTerm]

theorem decode_of_reserved {c : Command} (h : c.op = 0b00#2) : decode c = .reservedOp := by
  simp [decode, h, opInit, opStep, opTerm]

/-- Settles O1, from the decoder's equation for each code. -/
theorem writtenWordsDecode : Obligations.WrittenWordsDecode :=
  ⟨fun _ _ _ _ => decode_of_opInit rfl, fun _ _ _ _ => decode_of_opStep rfl,
    fun _ _ _ _ => decode_of_opTerm rfl, fun _ _ _ _ => decode_of_reserved rfl⟩

/-- The four codes of the table are all there are (30_encoding.md R51). -/
theorem op_cases (op : BitVec 2) : op = opInit ∨ op = opStep ∨ op = opTerm ∨ op = 0b00#2 := by
  revert op
  decide

/-- Everything a command word can decode to, with the code it then has. -/
theorem decode_cases (c : Command) :
    (c.op = opInit ∧ decode c = .instr .init) ∨
    (c.op = opStep ∧ decode c = .instr (.step c.in0 c.in1 c.in2 c.in3)) ∨
    (c.op = opTerm ∧ decode c = .instr .term) ∨
    (c.op = 0b00#2 ∧ decode c = .reservedOp) := by
  rcases op_cases c.op with h | h | h | h
  · exact .inl ⟨h, decode_of_opInit h⟩
  · exact .inr (.inl ⟨h, decode_of_opStep h⟩)
  · exact .inr (.inr (.inl ⟨h, decode_of_opTerm h⟩))
  · exact .inr (.inr (.inr ⟨h, decode_of_reserved h⟩))

theorem encode_op_of_decode {c : Command} {i : Instr} (h : decode c = .instr i) : (encode i).op = c.op := by
  obtain ⟨hop, hd⟩ | ⟨hop, hd⟩ | ⟨hop, hd⟩ | ⟨-, hd⟩ := decode_cases c <;> cases hd.symm.trans h
  all_goals exact hop.symm

/-- STEP's format loses nothing: its four elements are the word's four elements (30_encoding.md R53). -/
theorem encode_of_decode_of_opStep {c : Command} {i : Instr} (h : decode c = .instr i) (hop : c.op = opStep) :
    encode i = c := by
  cases (decode_of_opStep hop).symm.trans h
  rw [encode, ← hop]

theorem decode_eq_reservedOp_iff (c : Command) : decode c = .reservedOp ↔ c.op = 0b00#2 := by
  refine ⟨fun h => ?_, decode_of_reserved⟩
  obtain ⟨-, hd⟩ | ⟨-, hd⟩ | ⟨-, hd⟩ | ⟨hop, -⟩ := decode_cases c
  case inr.inr.inr => exact hop
  all_goals cases hd.symm.trans h

theorem ne_reservedOp_iff (d : Decoded) : d ≠ .reservedOp ↔ ∃ i, d = .instr i := by
  cases d <;> simp

theorem wellFormed_iff_decode_instr (c : Command) : c.wellFormed = true ↔ ∃ i, decode c = .instr i :=
  calc c.wellFormed = true
    _ ↔ c.op ≠ 0b00#2 := bne_iff_ne
    _ ↔ decode c ≠ .reservedOp := (decode_eq_reservedOp_iff c).not.symm
    _ ↔ ∃ i, decode c = .instr i := ne_reservedOp_iff _

/-- Format N and the reserved code: no element is consulted (30_encoding.md R52, R55). -/
theorem decode_congr_op {c c' : Command} (h : c.op = c'.op) (hne : c.op ≠ opStep) : decode c = decode c' := by
  obtain ⟨hop, hd⟩ | ⟨hop, -⟩ | ⟨hop, hd⟩ | ⟨hop, hd⟩ := decode_cases c
  · exact hd.trans (decode_of_opInit (h ▸ hop)).symm
  · exact absurd hop hne
  · exact hd.trans (decode_of_opTerm (h ▸ hop)).symm
  · exact hd.trans (decode_of_reserved (h ▸ hop)).symm

/-- Settles O2, each clause from the cases of what a word decodes to. -/
theorem decodeAndEncodeAgree : Obligations.DecodeAndEncodeAgree :=
  ⟨decode_encode, fun _ _ h => ⟨encode_op_of_decode h, encode_of_decode_of_opStep h⟩,
    decode_eq_reservedOp_iff, wellFormed_iff_decode_instr, fun _ _ => decode_congr_op⟩

end Sys2Proof.Machine
end

section
/-! PROOF. The Controller: the PI law in the library's max and min, the four parameters it reads, its fixed point at
v = Vref, and its range over a sequence of STEPs (40_controller.md R61 to R66). -/

namespace Sys2Proof.Machine

theorem ctrlStep_integ (P : Params) (c : Controller) (v : NUM) :
    (ctrlStep P c v).1.integ = max 0 (min 1 (c.integ + P.Ki * P.Ts * (P.Vref - v))) :=
  clamp_num zero_le_one

/-- The duty is taken from the new integ (40_controller.md R61 steps 4 and 5). -/
theorem ctrlStep_duty (P : Params) (c : Controller) (v : NUM) :
    (ctrlStep P c v).2 =
      max (1 / 50) (min (49 / 50) (P.Kp * (P.Vref - v) + (ctrlStep P c v).1.integ)) :=
  clamp_num (show dutyLo ≤ dutyHi by norm_num [dutyLo, dutyHi])

theorem Controller.ext_integ {c c' : Controller} (h : c.integ = c'.integ) : c = c' :=
  congrArg Controller.mk h

/-- Settles O15: both clamps, by their equation in max and min. -/
theorem ctrlStepIsClampedPiLaw : Obligations.CtrlStepIsClampedPiLaw := by
  intro P c v
  dsimp only
  rw [← ctrlStep_integ, ← ctrlStep_duty]

/-- Settles O20: CTRL.STEP's last act is the clamp of the duty. -/
theorem dutyStaysClamped : Obligations.DutyStaysClamped := ctrlStep_duty_bounds

/-- CTRL.STEP reads four of the six parameters (40_controller.md R66). -/
theorem ctrlStep_congr_params {P P' : Params} (hVref : P.Vref = P'.Vref) (hKi : P.Ki = P'.Ki) (hTs : P.Ts = P'.Ts)
    (hKp : P.Kp = P'.Kp) (c : Controller) (v : NUM) : ctrlStep P c v = ctrlStep P' c v := by
  have hinteg : (ctrlStep P c v).1.integ = (ctrlStep P' c v).1.integ := by
    rw [ctrlStep_integ, ctrlStep_integ, hVref, hKi, hTs]
  have hduty : (ctrlStep P c v).2 = (ctrlStep P' c v).2 := by
    rw [ctrlStep_duty, ctrlStep_duty, hinteg, hVref, hKp]
  exact Prod.ext (Controller.ext_integ hinteg) hduty

/-- Settles O18: a STEP is a tick, whose two components are CTRL.STEP on integ and PWM.STEP on the other five fields. -/
theorem controllerReadsNothingOfPwm : Obligations.ControllerReadsNothingOfPwm := by
  intro s s' r r' a b d v hr hr' hVref hKi hTs hKp hctrl
  have hsame : ctrlStep s.P r.ctrl v = ctrlStep s'.P r'.ctrl v := by
    rw [ctrlStep_congr_params hVref hKi hTs hKp, hctrl]
  refine ⟨hsame, _, _, _, _, exec_step_of_regs hr a b v d, exec_step_of_regs hr' a b v d, rfl, rfl, ?_, rfl, rfl,
    ?_⟩
  · rw [tick_ctrl, tick_ctrl, hsame]
  · rw [tick_pwm, hsame]

/-- With the error 0 the unclamped sum is integ itself, and the clamp moves nothing inside [0, 1]. -/
theorem ctrlStep_at_Vref_ctrl (P : Params) {c : Controller} (h : c.Inv) : (ctrlStep P c P.Vref).1 = c := by
  obtain ⟨hlo, hhi⟩ := h
  apply Controller.ext_integ
  rw [ctrlStep_integ, sub_self, mul_zero, add_zero, min_eq_right hhi, max_eq_right hlo]

/-- Settles O21: such a Controller is a fixed point of CTRL.STEP at v = Vref, so every step is the first one again. -/
theorem steadyStateHoldsFromFirstStep : Obligations.SteadyStateHoldsFromFirstStep := by
  intro P c n hlo hhi
  have hctrl := ctrlStep_at_Vref_ctrl P ⟨hlo, hhi⟩
  have hiter : (fun k : Controller => (ctrlStep P k P.Vref).1)^[n] c = c := Function.iterate_fixed hctrl n
  refine ⟨hiter, fun k hk => ?_⟩
  obtain rfl : c = k := hiter.symm.trans hk
  rw [ctrlStep_duty, hctrl, sub_self, mul_zero, zero_add]

theorem exec_stepOf_of_regs {s : State} {r : Regs} (h : s.regs = some r) (x : Vector NUM 4) :
    exec (stepOf x) s = .next ((s.setRegs (tick s.P r x[2]).1).respond (outVector (tick s.P r x[2]).2)) :=
  exec_step_of_regs h _ _ _ _

/-- From fields that hold a value every sequence of STEPs completes, and what every tick keeps holds at its end. -/
theorem runInstrs_steps_keep {p : Regs → Prop} (xs : List (Vector NUM 4)) {s : State} {r : Regs}
    (hkeep : ∀ q v, p q → p (tick s.P q v).1) (hr : s.regs = some r) (h : p r) :
    ∃ t q, runInstrs (xs.map stepOf) s = .next t ∧ t.regs = some q ∧ p q := by
  induction xs generalizing s r with
  | nil => exact ⟨s, r, rfl, hr, h⟩
  | cons x xs ih =>
    rw [List.map_cons, runInstrs_cons_of_next (exec_stepOf_of_regs hr x)]
    exact ih hkeep rfl (hkeep r x[2] h)

/-- Settles O19: the first STEP brings integ into [0, 1] from anywhere, and the later ones keep it there. -/
theorem integratorStaysClamped : Obligations.IntegratorStaysClamped := by
  refine ⟨fun s r xs hr hne => ?_, fun s hfits => ⟨_, _, exec_init_of_fits hfits, rfl, rfl⟩⟩
  obtain ⟨x, xs, rfl⟩ := List.exists_cons_of_ne_nil hne
  rw [List.map_cons, runInstrs_cons_of_next (exec_stepOf_of_regs hr x)]
  exact runInstrs_steps_keep (p := fun q => q.ctrl.Inv) xs (fun q v _ => ctrlStep_integ_bounds _ q.ctrl v) rfl
    (ctrlStep_integ_bounds s.P r.ctrl x[2])

end Sys2Proof.Machine
end

section
/-! PROOF. The two counts of PWM.INIT at a degenerate configuration and at a deadtime below half a tick
(41_pwm_generator.md R70 to R72, R80, 60_exceptions.md R101). -/

namespace Sys2Proof.Machine

/-- 60_exceptions.md R101 A1, A4. -/
theorem periodCounts_of_degenerate {P : Params} (h : P.Ts ≤ 0 ∨ P.fsw ≤ 0) : periodCounts P = 100 := by
  rw [periodCounts_eq, if_neg]
  rintro ⟨hTs, hfsw⟩
  exact h.elim hTs.not_ge hfsw.not_ge

/-- 60_exceptions.md R101 A2, A3. -/
theorem deadCounts_of_degenerate {P : Params} (h : P.Ts ≤ 0 ∨ P.deadtime_s ≤ 0) (period : Int) :
    deadCounts P period = 0 := by
  rw [deadCounts, if_neg]
  rintro ⟨hdeadtime, hTs⟩
  exact h.elim hTs.not_ge hdeadtime.not_ge

/-- Settles O6: the ranges are INV1 and INV2 of the state that PWM.INIT leaves, and each default is the else of its test. -/
theorem initAbsorbsDegenerateConfiguration : Obligations.InitAbsorbsDegenerateConfiguration := by
  intro s hfits
  obtain ⟨hperiod, hdead, hcap, -⟩ := pwmInit_inv s.P
  rw [div2_eq] at hcap
  refine ⟨Regs.initial s.P, exec_init_of_fits hfits, hperiod, hdead, ?_, periodCounts_of_degenerate,
    fun h => deadCounts_of_degenerate h _⟩
  show 2 * (pwmInit s.P).dead_counts ≤ (pwmInit s.P).period_counts
  omega

/-- Less than half a tick rounds to 0, which the clamp of I2 keeps (41_pwm_generator.md R80). -/
theorem deadCounts_of_lt_half {P : Params} (h : P.deadtime_s / P.Ts < 1 / 2) {period : Int} (hperiod : 0 ≤ period) :
    deadCounts P period = 0 := by
  unfold deadCounts
  split
  · next hpos =>
    obtain ⟨hdeadtime, hTs⟩ := hpos
    have hquot : 0 < P.deadtime_s / P.Ts := div_pos hdeadtime hTs
    have hround : round (P.deadtime_s / P.Ts) = 0 := by
      rw [round_of_nonneg hquot.le, Int.floor_eq_zero_iff]
      constructor <;> linarith
    rw [hround, div2_eq, clamp_int (by omega)]
    omega
  · rfl

end Sys2Proof.Machine
end

section
/-! PROOF. One tick of the PWM Generator, from any state and at any duty: its whole transition, its response, on_counts
in the Controller's range, and its frame (41_pwm_generator.md R73, R74, R76, R82, R85). -/

namespace Sys2Proof.Machine

theorem refloor_eq (g : PwmGen) : refloor g = { g with period_counts := max 2 g.period_counts } := by
  unfold refloor
  split
  · rw [max_eq_left (by omega)]
  · rw [max_eq_right (by omega)]

theorem advance_eq (g : PwmGen) :
    advance g = { g with cnt := if g.period_counts ≤ g.cnt + 1 then 0 else g.cnt + 1 } := by
  unfold advance
  split <;> rfl

/-- S1, S2 and S3 in the library's floor, max and min. -/
theorem rawOf_eq_clamped (g : PwmGen) (duty : NUM) :
    rawOf g duty =
      if g.cnt < max 0 (min (max 2 g.period_counts) ⌊duty * (max 2 g.period_counts : Int)⌋) then 1#1 else 0#1 := by
  rw [rawOf, refloor_cnt, refloor_period, onCounts, clamp_int (by omega), floor_eq, rawHigh]

/-- Settles O16: the three branches are S5, a blanked tick and S4c, between the same S1 to S3 and S6. -/
theorem pwmStepTransition : Obligations.PwmStepTransition := by
  intro g duty
  dsimp only
  rw [← rawOf_eq_clamped, ← armed_eq]
  have hcases := drive_cases (refloor g) (rawOf g duty)
  simp only [refloor_dead, armed_refloor] at hcases
  obtain ⟨hoff, hdrive⟩ | ⟨hon, hpos, hdrive⟩ | ⟨hon, hzero, hdrive⟩ := hcases
  · rw [if_pos hoff, pwmStep, hdrive, advance_eq, refloor_eq]
    rfl
  · rw [if_neg hon.not_ge, if_pos hpos, pwmStep, hdrive, advance_eq, refloor_eq]
  · rw [if_neg hon.not_ge, if_neg hzero.not_gt, pwmStep, hdrive, advance_eq, refloor_eq]
    rfl

/-- The response carries both gate bits, so it determines them. -/
theorem outVector_injective : Function.Injective outVector := by
  rintro ⟨high, low⟩ ⟨high', low'⟩ h
  obtain ⟨rfl, rfl⟩ := Response.mk.inj h
  rfl

theorem pwmStep_gates_of_blanked {g : PwmGen} {duty : NUM} (hon : 0 < g.dead_counts)
    (hpos : 0 < armed g (rawOf g duty)) : (pwmStep g duty).2 = ⟨0#1, 0#1⟩ :=
  outVector_injective (pwmStep_response_of_blanked ⟨hon, hpos⟩)

theorem pwmStep_gates_of_not_blanked {g : PwmGen} {duty : NUM}
    (h : g.dead_counts ≤ 0 ∨ armed g (rawOf g duty) ≤ 0) : (pwmStep g duty).2 = emitRaw (rawOf g duty) :=
  outVector_injective (pwmStep_response_of_not_blanked (by omega))

theorem emitRaw_not_both_on (raw : BIT) : ¬((emitRaw raw).gate_high = 1#1 ∧ (emitRaw raw).gate_low = 1#1) := by
  rcases bit_cases raw with rfl | rfl <;> decide

theorem emitRaw_ne_off (raw : BIT) : emitRaw raw ≠ ⟨0#1, 0#1⟩ :=
  fun h => outVector_emitRaw_ne_off raw (congrArg outVector h)

theorem real_emitRaw_add (raw : BIT) : real (emitRaw raw).gate_high + real (emitRaw raw).gate_low = 1 := by
  rcases bit_cases raw with rfl | rfl
  · exact zero_add 1
  · exact add_zero 1

/-- Settles O22: a blanked tick answers (0, 0), and any other the raw pair, which is never (1, 1). -/
theorem noShootThrough : Obligations.NoShootThrough := by
  intro g duty
  by_cases h : g.dead_counts ≤ 0 ∨ armed g (rawOf g duty) ≤ 0
  · rw [pwmStep_gates_of_not_blanked h]
    exact ⟨.inr rfl, emitRaw_not_both_on _⟩
  · obtain ⟨hon, hpos⟩ := not_or.mp h
    rw [pwmStep_gates_of_blanked (not_le.mp hon) (not_le.mp hpos)]
    exact ⟨.inl rfl, by decide⟩

/-- Settles O23: blanked and not blanked are the two cases of S4b. -/
theorem complementaryUnlessBlanked : Obligations.ComplementaryUnlessBlanked := by
  intro g duty
  dsimp only
  rw [← armed_eq]
  refine ⟨fun h => ?_, pwmStep_gates_of_blanked⟩
  rw [pwmStep_gates_of_not_blanked h]
  exact real_emitRaw_add _

/-- Settles O24: on_counts is the plain floor of a number below the period. -/
theorem onCountsRange : Obligations.OnCountsRange := by
  intro period duty hperiod hlo hhi
  have hp : (0 : NUM) < period := mod_cast (show 0 < period by omega)
  have hfloor : onCounts period duty = ⌊duty * period⌋ :=
    onCounts_eq_floor (by omega) (by linarith) (by linarith)
  rw [hfloor]
  have hnonneg : 0 ≤ ⌊duty * period⌋ := Int.floor_nonneg.mpr (mul_nonneg (by linarith) hp.le)
  have hlt : ⌊duty * period⌋ < period :=
    Int.floor_lt.mpr (mul_lt_of_lt_one_left hp (by linarith))
  refine ⟨rfl, hnonneg, by omega, fun hone => ?_, ?_, ?_⟩
  · exact Int.floor_eq_zero_iff.mpr ⟨Int.floor_nonneg.mp hnonneg, hone⟩
  · exact (div_le_iff₀ hp).mpr (Int.floor_le _)
  · exact (lt_div_iff₀ hp).mpr (Int.lt_floor_add_one _)

/-- Settles O25: S1 is the only write of period_counts, and S4 the only one of the flag and the blanking counter. -/
theorem tickFrame : Obligations.TickFrame := by
  intro g duty
  refine ⟨fun h => ?_, fun h => ?_, pwmStep_dead g duty, fun h => pwmStep_of_deadtime_off h duty⟩
  · rw [pwmStep_period, max_eq_right h]
  · rw [pwmStep_period, max_eq_left h.le]

end Sys2Proof.Machine
end

section
/-! PROOF. Runs of ticks and the carrier: a sequence of STEPs is a run of PWM ticks, the counter counts ticks modulo
the period, and a constant duty has the raw gate on for on_counts ticks of it (41_pwm_generator.md R75, R83). -/

namespace Sys2Proof.Machine

theorem pwmRun_append (g : PwmGen) (ds es : List NUM) : pwmRun g (ds ++ es) = pwmRun (pwmRun g ds) es := by
  induction ds generalizing g with
  | nil => rfl
  | cons d ds ih => exact ih _

theorem pwmGates_append (g : PwmGen) (ds es : List NUM) :
    pwmGates g (ds ++ es) = pwmGates g ds ++ pwmGates (pwmRun g ds) es := by
  induction ds generalizing g with
  | nil => rfl
  | cons d ds ih => exact congrArg _ (ih _)

theorem pwmRaws_append (g : PwmGen) (ds es : List NUM) :
    pwmRaws g (ds ++ es) = pwmRaws g ds ++ pwmRaws (pwmRun g ds) es := by
  induction ds generalizing g with
  | nil => rfl
  | cons d ds ih => exact congrArg _ (ih _)

@[simp] theorem pwmRun_dead (g : PwmGen) (ds : List NUM) : (pwmRun g ds).dead_counts = g.dead_counts := by
  induction ds generalizing g with
  | nil => rfl
  | cons d ds ih => rw [pwmRun, ih, pwmStep_dead]

/-- A sequence of STEPs runs the PWM Generator through as many ticks, at the duties the Controller computes. -/
theorem runInstrs_steps_pwmRun (xs : List (Vector NUM 4)) {s : State} {r : Regs} (hr : s.regs = some r) :
    ∃ t q ds, runInstrs (xs.map stepOf) s = .next t ∧ t.regs = some q ∧ ds.length = xs.length ∧
      q.pwm = pwmRun r.pwm ds := by
  induction xs generalizing s r with
  | nil => exact ⟨s, r, [], rfl, hr, rfl, rfl⟩
  | cons x xs ih =>
    rw [List.map_cons, runInstrs_cons_of_next (exec_stepOf_of_regs hr x)]
    have hnext : ((s.setRegs (tick s.P r x[2]).1).respond (outVector (tick s.P r x[2]).2)).regs =
        some (tick s.P r x[2]).1 := rfl
    obtain ⟨t, q, ds, hrun, hq, hlen, hpwm⟩ := ih hnext
    exact ⟨t, q, (ctrlStep s.P r.ctrl x[2]).2 :: ds, hrun, hq, congrArg (· + 1) hlen, hpwm⟩

/-- Two states with the same carrier: the counter and the two counts that INIT derived. -/
def PwmGen.SameCarrier (g g' : PwmGen) : Prop :=
  g.cnt = g'.cnt ∧ g.period_counts = g'.period_counts ∧ g.dead_counts = g'.dead_counts

theorem pwmStep_sameCarrier {g g' : PwmGen} (h : g.SameCarrier g') (d e : NUM) :
    (pwmStep g d).1.SameCarrier (pwmStep g' e).1 := by
  obtain ⟨hcnt, hperiod, hdead⟩ := h
  refine ⟨?_, ?_, ?_⟩
  · rw [pwmStep_cnt, pwmStep_cnt, hcnt, hperiod]
  · rw [pwmStep_period, pwmStep_period, hperiod]
  · rw [pwmStep_dead, pwmStep_dead, hdead]

/-- 41_pwm_generator.md R83: how many ticks ran is all that the carrier depends on. -/
theorem pwmRun_sameCarrier {g g' : PwmGen} {ds es : List NUM} (h : g.SameCarrier g') (hlen : ds.length = es.length) :
    (pwmRun g ds).SameCarrier (pwmRun g' es) := by
  induction ds generalizing g g' es with
  | nil =>
    obtain rfl := List.length_eq_zero_iff.mp hlen.symm
    exact h
  | cons d ds ih =>
    obtain ⟨e, es, rfl⟩ := List.exists_cons_of_length_eq_add_one hlen.symm
    rw [pwmRun, pwmRun]
    exact ih (pwmStep_sameCarrier h d e) (Nat.succ.inj hlen)

/-- Settles O30: both sequences are runs of equally many ticks from the same state. -/
theorem carrierIndependentOfInputs : Obligations.CarrierIndependentOfInputs := by
  intro s r xs ys hr hlen
  obtain ⟨t, q, ds, hrun, hq, hds, hpwm⟩ := runInstrs_steps_pwmRun xs hr
  obtain ⟨u, p, es, hrun', hp, hes, hpwm'⟩ := runInstrs_steps_pwmRun ys hr
  refine ⟨t, u, q, p, hrun, hrun', hq, hp, ?_⟩
  rw [hpwm, hpwm']
  exact pwmRun_sameCarrier ⟨rfl, rfl, rfl⟩ (by omega)

/-- INV1 and INV3 (10_state.md R31), all that the carrier's course rests on. -/
structure PwmGen.CarrierInv (g : PwmGen) : Prop where
  period_ge : 2 ≤ g.period_counts
  cnt_ge : 0 ≤ g.cnt
  cnt_lt : g.cnt < g.period_counts

theorem PwmGen.Inv.carrier {g : PwmGen} (h : g.Inv) : g.CarrierInv := ⟨h.period_ge, h.cnt_ge, h.cnt_lt⟩

theorem pwmStep_period_of_carrier {g : PwmGen} (h : g.CarrierInv) (duty : NUM) :
    (pwmStep g duty).1.period_counts = g.period_counts := by
  rw [pwmStep_period, max_eq_right h.period_ge]

/-- S6 is the successor modulo the period. -/
theorem pwmStep_cnt_of_carrier {g : PwmGen} (h : g.CarrierInv) (duty : NUM) :
    (pwmStep g duty).1.cnt = (g.cnt + 1) % g.period_counts := by
  obtain ⟨hperiod, hcnt, hwrap⟩ := h
  rw [pwmStep_cnt, max_eq_right hperiod]
  split
  · rw [show g.cnt + 1 = g.period_counts by omega, Int.emod_self]
  · rw [Int.emod_eq_of_lt (by omega) (by omega)]

theorem pwmStep_carrierInv {g : PwmGen} (h : g.CarrierInv) (duty : NUM) : (pwmStep g duty).1.CarrierInv := by
  have hpos : 0 < g.period_counts := by linarith [h.period_ge]
  constructor
  · rw [pwmStep_period_of_carrier h]
    exact h.period_ge
  · rw [pwmStep_cnt_of_carrier h]
    exact Int.emod_nonneg _ hpos.ne'
  · rw [pwmStep_cnt_of_carrier h, pwmStep_period_of_carrier h]
    exact Int.emod_lt_of_pos _ hpos

theorem pwmRun_carrierInv {g : PwmGen} (h : g.CarrierInv) (ds : List NUM) : (pwmRun g ds).CarrierInv := by
  induction ds generalizing g with
  | nil => exact h
  | cons d ds ih => exact ih (pwmStep_carrierInv h d)

theorem pwmRun_period_of_carrier {g : PwmGen} (h : g.CarrierInv) (ds : List NUM) :
    (pwmRun g ds).period_counts = g.period_counts := by
  induction ds generalizing g with
  | nil => rfl
  | cons d ds ih => rw [pwmRun, ih (pwmStep_carrierInv h d), pwmStep_period_of_carrier h]

/-- 41_pwm_generator.md R75. -/
theorem pwmRun_cnt_of_carrier {g : PwmGen} (h : g.CarrierInv) (ds : List NUM) :
    (pwmRun g ds).cnt = (g.cnt + ds.length) % g.period_counts := by
  induction ds generalizing g with
  | nil => rw [pwmRun, List.length_nil, Nat.cast_zero, add_zero, Int.emod_eq_of_lt h.cnt_ge h.cnt_lt]
  | cons d ds ih =>
    rw [pwmRun, ih (pwmStep_carrierInv h d), pwmStep_cnt_of_carrier h, pwmStep_period_of_carrier h,
      Int.emod_add_emod, List.length_cons, Nat.cast_add_one, add_assoc, add_comm (1 : Int)]

/-- Settles O29: INIT starts the counter at 0, and each of the ticks of the run counts one more modulo the period. -/
theorem counterFollowsTicks : Obligations.CounterFollowsTicks := by
  intro s xs hfits
  have hcarrier := (pwmInit_inv s.P).carrier
  obtain ⟨t, q, ds, hrun, hq, hlen, hpwm⟩ :=
    runInstrs_steps_pwmRun xs (s := s.setRegs (Regs.initial s.P)) rfl
  have hperiod : q.pwm.period_counts = periodCounts s.P := by
    rw [hpwm]
    exact pwmRun_period_of_carrier hcarrier ds
  refine ⟨t, q, ?_, hq, hperiod, ?_⟩
  · rw [runInstrs_cons_of_next (exec_init_of_fits hfits), hrun]
  · rw [hperiod, hpwm, ← hlen, ← zero_add (ds.length : Int)]
    exact pwmRun_cnt_of_carrier hcarrier ds

theorem rawOf_of_two_le {g : PwmGen} (h : 2 ≤ g.period_counts) (duty : NUM) :
    rawOf g duty = rawHigh g.cnt (onCounts g.period_counts duty) := by
  rw [rawOf, refloor_cnt, refloor_period, max_eq_right h]

/-- At a constant duty the k-th tick of a stretch that does not wrap compares `cnt + k` with on_counts. -/
theorem pwmRaws_replicate {g : PwmGen} (h : g.CarrierInv) (duty : NUM) {m : Nat} (hm : g.cnt + m ≤ g.period_counts) :
    pwmRaws g (List.replicate m duty) =
      (List.range m).map (fun k : Nat => rawHigh (g.cnt + k) (onCounts g.period_counts duty)) := by
  induction m generalizing g with
  | zero => rfl
  | succ m ih =>
    rw [List.replicate_succ, pwmRaws, rawOf_of_two_le h.period_ge, List.range_succ_eq_map, List.map_cons, List.map_map,
      Nat.cast_zero, add_zero]
    congr 1
    cases m with
    | zero => rfl
    | succ m =>
      have hcnt : (pwmStep g duty).1.cnt = g.cnt + 1 := by
        rw [pwmStep_cnt_of_carrier h, Int.emod_eq_of_lt (by linarith [h.cnt_ge]) (by omega)]
      rw [ih (pwmStep_carrierInv h duty) (by rw [hcnt, pwmStep_period_of_carrier h]; omega), hcnt,
        pwmStep_period_of_carrier h]
      refine List.map_congr_left fun k _ => ?_
      rw [Function.comp_apply, Nat.cast_succ, add_assoc, add_comm (1 : Int)]

/-- Among m consecutive counter values from c on, those below on_counts. -/
theorem count_rawHigh_range (c onc : Int) (m : Nat) :
    (((List.range m).map (fun k : Nat => rawHigh (c + k) onc)).count 1#1 : Int) = min onc (c + m) - min onc c := by
  induction m with
  | zero => simp
  | succ m ih =>
    rw [List.range_succ, List.map_append, List.count_append, Nat.cast_add, ih, List.map_singleton, rawHigh]
    split
    · rw [List.count_singleton_self]
      omega
    · rw [List.count_singleton, if_neg (by decide)]
      omega

/-- Settles O31: the period is the stretch up to the wrap and the stretch from 0 on to the starting point. -/
theorem rawOnTicksPerPeriod : Obligations.RawOnTicksPerPeriod := by
  intro g duty hperiod hcnt hwrap h0 h1
  have hcarrier : g.CarrierInv := ⟨hperiod, hcnt, hwrap⟩
  obtain ⟨before, hbefore⟩ := Int.eq_ofNat_of_zero_le hcnt
  obtain ⟨rest, hrest⟩ := Int.eq_ofNat_of_zero_le (show 0 ≤ g.period_counts - g.cnt by omega)
  have hstart : (pwmRun g (List.replicate rest duty)).cnt = 0 := by
    rw [pwmRun_cnt_of_carrier hcarrier, List.length_replicate, ← hrest, add_sub_cancel, Int.emod_self]
  have hsame := pwmRun_period_of_carrier hcarrier (List.replicate rest duty)
  rw [show g.period_counts.toNat = rest + before by omega, List.replicate_add, pwmRaws_append,
    pwmRaws_replicate hcarrier duty (by omega),
    pwmRaws_replicate (pwmRun_carrierInv hcarrier _) duty (by omega), hstart, hsame, List.count_append, Nat.cast_add,
    count_rawHigh_range, count_rawHigh_range, ← onCounts_eq_floor (by omega) h0 h1]
  have hbounds := onCounts_bounds (show 0 ≤ g.period_counts by omega) duty
  omega

end Sys2Proof.Machine
end

section
/-! PROOF. Blanking windows: an edge opens one of dead_counts ticks, whatever edges follow; along a stretch with one raw
gate the armed counter runs down to 0, and the raw pair goes out for the rest of it (41_pwm_generator.md R77, R78, R84). -/

namespace Sys2Proof.Machine

/-- S4a on an edge. -/
theorem armed_of_edge {g : PwmGen} {raw : BIT} (h : raw ≠ g.last_raw_u) : armed g raw = g.dead_counts := by
  rw [armed_eq, if_neg h]

theorem armed_of_no_edge {g : PwmGen} {raw : BIT} (h : raw = g.last_raw_u) : armed g raw = g.dt_counter := by
  rw [armed_eq, if_pos h]

/-- S4b: a positive armed counter is used up by one, and 0 stays 0. -/
theorem pwmStep_dt_of_deadtime_on {g : PwmGen} {duty : NUM} (hon : 0 < g.dead_counts)
    (harmed : 0 ≤ armed g (rawOf g duty)) :
    (pwmStep g duty).1.dt_counter = max 0 (armed g (rawOf g duty) - 1) := by
  obtain ⟨hoff, -⟩ | ⟨-, hpos, -, hdt, -⟩ | ⟨-, hzero, -, hdt, -⟩ := pwmStep_cases g duty <;> omega

/-- Inside a window every tick is blanked: an edge only restarts it, with dead_counts ticks. -/
theorem pwmGates_off_in_window {g : PwmGen} {ds : List NUM} (hdt : ds.length ≤ g.dt_counter)
    (hdead : ds.length ≤ g.dead_counts) : ∀ o ∈ pwmGates g ds, o = ⟨0#1, 0#1⟩ := by
  induction ds generalizing g with
  | nil => exact fun o ho => nomatch ho
  | cons d ds ih =>
    rw [List.length_cons, Nat.cast_succ] at hdt hdead
    have hon : 0 < g.dead_counts := by omega
    have harmed : ds.length + 1 ≤ armed g (rawOf g d) := by
      rw [armed_eq]
      split <;> assumption
    refine List.forall_mem_cons.mpr ⟨pwmStep_gates_of_blanked hon (by omega), ih ?_ ?_⟩
    · rw [pwmStep_dt_of_deadtime_on hon (by omega)]
      omega
    · rw [pwmStep_dead]
      omega

theorem pwmGates_off_from_edge {g : PwmGen} {now : NUM} {later : List NUM} (hon : 0 < g.dead_counts)
    (hedge : rawOf g now ≠ g.last_raw_u) (hlen : later.length < g.dead_counts) :
    ∀ o ∈ pwmGates g (now :: later), o = ⟨0#1, 0#1⟩ := by
  have harmed := armed_of_edge hedge
  refine List.forall_mem_cons.mpr ⟨pwmStep_gates_of_blanked hon (by omega), pwmGates_off_in_window ?_ ?_⟩
  · rw [pwmStep_dt_of_deadtime_on hon (by omega)]
    omega
  · rw [pwmStep_dead]
    exact hlen.le

/-- Settles O32: with deadtime on the flag is the previous tick's raw gate, and after INIT it is 0. -/
theorem everyEdgeOpensBlankingWindow : Obligations.EveryEdgeOpensBlankingWindow := by
  refine ⟨fun g before now later hon hedge hlen => ?_, fun P now later hon hedge hlen => ?_⟩
  · rw [← pwmStep_last_of_deadtime_on hon before] at hedge
    rw [← pwmStep_dead g before] at hon hlen
    exact pwmGates_off_from_edge hon hedge hlen
  · exact pwmGates_off_from_edge hon hedge hlen

/-- The armed counter that a tick leaves to the next one with the same raw gate. -/
theorem armed_pwmStep {g : PwmGen} {duty : NUM} (hon : 0 < g.dead_counts) (harmed : 0 ≤ armed g (rawOf g duty)) :
    armed (pwmStep g duty).1 (rawOf g duty) = max 0 (armed g (rawOf g duty) - 1) := by
  rw [armed_of_no_edge (pwmStep_last_of_deadtime_on hon duty).symm, pwmStep_dt_of_deadtime_on hon harmed]

/-- A stretch of ticks with one raw gate b: blanked while the counter armed on its first tick lasts, then the raw pair. -/
theorem pwmGates_of_raws_const {g : PwmGen} {b : BIT} {ds : List NUM} (hon : 0 < g.dead_counts)
    (harmed : 0 ≤ armed g b) (hraws : ∀ x ∈ pwmRaws g ds, x = b) :
    pwmGates g ds = List.replicate (min (armed g b).toNat ds.length) ⟨0#1, 0#1⟩ ++
      List.replicate (ds.length - (armed g b).toNat) (emitRaw b) := by
  induction ds generalizing g with
  | nil => simp [pwmGates]
  | cons d ds ih =>
    obtain ⟨rfl, hrest⟩ := List.forall_mem_cons.mp hraws
    have hnext := armed_pwmStep hon harmed
    rw [pwmGates, ih (by rwa [pwmStep_dead]) (by omega) hrest, hnext, List.length_cons]
    rcases harmed.lt_or_eq with hpos | hzero
    · rw [pwmStep_gates_of_blanked hon hpos, ← List.cons_append, ← List.replicate_succ]
      congr 2 <;> omega
    · rw [pwmStep_gates_of_not_blanked (.inr hzero.ge), ← hzero]
      simp [List.replicate_succ]

/-- What such a stretch leaves: the flag latched at b, and the armed counter run down. -/
theorem pwmRun_of_raws_const {g : PwmGen} {b : BIT} {ds : List NUM} (hon : 0 < g.dead_counts) (hne : ds ≠ [])
    (harmed : 0 ≤ armed g b) (hraws : ∀ x ∈ pwmRaws g ds, x = b) :
    (pwmRun g ds).last_raw_u = b ∧ (pwmRun g ds).dt_counter = max 0 (armed g b - ds.length) := by
  induction ds generalizing g with
  | nil => exact absurd rfl hne
  | cons d ds ih =>
    obtain ⟨rfl, hrest⟩ := List.forall_mem_cons.mp hraws
    cases ds with
    | nil => exact ⟨pwmStep_last_of_deadtime_on hon d, pwmStep_dt_of_deadtime_on hon harmed⟩
    | cons e es =>
      have hnext := armed_pwmStep hon harmed
      obtain ⟨hlast, hdt⟩ := ih (by rwa [pwmStep_dead]) (List.cons_ne_nil e es) (by omega) hrest
      refine ⟨hlast, ?_⟩
      rw [pwmRun, hdt, hnext, List.length_cons (a := d), Nat.cast_succ]
      omega

/-- A stretch that begins with an edge: blanked for dead_counts ticks, or for the whole of it where it is shorter. -/
theorem edge_stretch {g : PwmGen} {b : BIT} {ds : List NUM} (hon : 0 < g.dead_counts) (hedge : b ≠ g.last_raw_u)
    (hraws : ∀ x ∈ pwmRaws g ds, x = b) :
    pwmGates g ds = List.replicate (min g.dead_counts.toNat ds.length) ⟨0#1, 0#1⟩ ++
        List.replicate (ds.length - g.dead_counts.toNat) (emitRaw b) ∧
      (ds ≠ [] → (pwmRun g ds).last_raw_u = b) := by
  have harmed := armed_of_edge hedge
  have hnonneg : 0 ≤ armed g b := by omega
  rw [pwmGates_of_raws_const hon hnonneg hraws, harmed]
  exact ⟨rfl, fun hne => (pwmRun_of_raws_const hon hne hnonneg hraws).1⟩

/-- Settles O33: the edge's tick and the later ones are a stretch with one raw gate, longer than dead_counts. -/
theorem blankingWindowEnds : Obligations.BlankingWindowEnds := by
  intro g now last later hon hedge hlater hlen
  have hraws : ∀ b ∈ pwmRaws g (now :: (later ++ [last])), b = rawOf g now :=
    List.forall_mem_cons.mpr ⟨rfl, hlater⟩
  have hpos : (now :: (later ++ [last])).length - g.dead_counts.toNat ≠ 0 := by
    rw [List.length_cons, List.length_append, List.length_singleton]
    omega
  rw [(edge_stretch hon hedge hraws).1, List.getLast?_append, List.getLast?_replicate, if_neg hpos]
  rfl

end Sys2Proof.Machine
end

section
/-! PROOF. The response patterns: a period at constant duty is a stretch with the raw gate on and one with it off
(41_pwm_generator.md R79); without deadtime there is no blanking (R80); and the first tick after INIT (R81). -/

namespace Sys2Proof.Machine

/-- While the counter is below on_counts the raw gate is on. -/
theorem pwmRaws_all_on {g : PwmGen} (h : g.CarrierInv) {duty : NUM} {m : Nat}
    (hm : g.cnt + m ≤ onCounts g.period_counts duty) : ∀ x ∈ pwmRaws g (List.replicate m duty), x = 1#1 := by
  have hperiod := h.period_ge
  have hbounds := onCounts_bounds (show 0 ≤ g.period_counts by omega) duty
  rw [pwmRaws_replicate h duty (by omega), List.forall_mem_map]
  intro k hk
  have hlt := List.mem_range.mp hk
  exact if_pos (by omega)

/-- From on_counts to the end of the period the raw gate is off. -/
theorem pwmRaws_all_off {g : PwmGen} (h : g.CarrierInv) {duty : NUM} {m : Nat} (hm : g.cnt + m ≤ g.period_counts)
    (hcnt : onCounts g.period_counts duty ≤ g.cnt) : ∀ x ∈ pwmRaws g (List.replicate m duty), x = 0#1 := by
  rw [pwmRaws_replicate h duty hm, List.forall_mem_map]
  intro k _
  exact if_neg (by omega)

theorem onCounts_eq_zero {period : Int} {duty : NUM} (hperiod : 0 ≤ period) (h : duty * period < 1) :
    onCounts period duty = 0 := by
  have hfloor : ⌊duty * period⌋ < 1 := Int.floor_lt.mpr (by simpa using h)
  rw [onCounts, clamp_int hperiod, floor_eq]
  omega

theorem onCounts_eq_period {period : Int} {duty : NUM} (hperiod : 0 ≤ period) (h : 1 ≤ duty) :
    onCounts period duty = period := by
  have hfloor : period ≤ ⌊duty * period⌋ := Int.le_floor.mpr (le_mul_of_one_le_left (mod_cast hperiod) h)
  rw [onCounts, clamp_int hperiod, floor_eq]
  omega

theorem PwmGen.ext_fields {g g' : PwmGen} (hperiod : g.period_counts = g'.period_counts)
    (hdead : g.dead_counts = g'.dead_counts) (hcnt : g.cnt = g'.cnt) (hlast : g.last_raw_u = g'.last_raw_u)
    (hdt : g.dt_counter = g'.dt_counter) : g = g' := by
  cases g
  cases g'
  simp_all only

/-- A whole period with one raw gate ends as it began, but for the flag latched at b and the window over. -/
theorem pwmRun_period_of_raws_const {g : PwmGen} {b : BIT} {ds : List NUM} (h : g.CarrierInv) (hon : 0 < g.dead_counts)
    (hcnt : g.cnt = 0) (harmed : 0 ≤ armed g b) (hcap : armed g b ≤ g.period_counts)
    (hlen : ds.length = g.period_counts) (hraws : ∀ x ∈ pwmRaws g ds, x = b) :
    pwmRun g ds = { g with last_raw_u := b, dt_counter := 0 } := by
  have hne : ds ≠ [] := List.length_pos_iff.mp (by linarith [h.period_ge])
  obtain ⟨hlast, hdt⟩ := pwmRun_of_raws_const hon hne harmed hraws
  have hwrap : (pwmRun g ds).cnt = g.cnt := by
    rw [pwmRun_cnt_of_carrier h, hlen, hcnt, zero_add, Int.emod_self]
  rw [hlen, max_eq_left (sub_nonpos.mpr hcap)] at hdt
  exact PwmGen.ext_fields (pwmRun_period_of_carrier h ds) (pwmRun_dead g ds) hwrap hlast hdt

/-- A period with one raw gate b that starts with the flag at b and no window open repeats itself: the raw pair on
every tick, and the same state again. -/
theorem steady_period_of_raws_const {g : PwmGen} {b : BIT} {ds : List NUM} (h : g.CarrierInv) (hon : 0 < g.dead_counts)
    (hcnt : g.cnt = 0) (hlast : g.last_raw_u = b) (hdt : g.dt_counter = 0) (hlen : ds.length = g.period_counts)
    (hraws : ∀ x ∈ pwmRaws g ds, x = b) :
    pwmGates g ds = List.replicate ds.length (emitRaw b) ∧ pwmRun g ds = g := by
  have harmed : armed g b = 0 := (armed_of_no_edge hlast.symm).trans hdt
  constructor
  · rw [pwmGates_of_raws_const hon harmed.ge hraws, harmed]
    simp
  · rw [pwmRun_period_of_raws_const h hon hcnt harmed.ge (by linarith [h.period_ge]) hlen hraws, ← hlast, ← hdt]

/-- Settles O35: at zero on_counts no window ever opens; at full on_counts one opens on the first tick, and none in
the next period, which finds the flag on. -/
theorem steadyPatternAtExtremes : Obligations.SteadyPatternAtExtremes := by
  intro g duty hperiod hon hcap hcnt hlast hdt ticks
  have h : g.CarrierInv := ⟨hperiod, by omega, by omega⟩
  have hcount : ticks.length = g.period_counts.toNat := List.length_replicate
  have hlen : (ticks.length : Int) = g.period_counts := by omega
  rw [← hcount]
  refine ⟨fun hduty => ?_, fun hduty => ?_⟩
  · have hzero := onCounts_eq_zero (show 0 ≤ g.period_counts by omega) hduty
    exact steady_period_of_raws_const h hon hcnt hlast hdt hlen (pwmRaws_all_off h (by omega) (by omega))
  · have hfull := onCounts_eq_period (show 0 ≤ g.period_counts by omega) hduty
    have hedge : 1#1 ≠ g.last_raw_u := by rw [hlast]; decide
    have harmed := armed_of_edge hedge
    have hraws : ∀ x ∈ pwmRaws g ticks, x = 1#1 := pwmRaws_all_on h (by omega)
    constructor
    · rw [(edge_stretch hon hedge hraws).1, min_eq_left (by omega),
        show ticks.length - g.dead_counts.toNat = (g.period_counts - g.dead_counts).toNat by omega]
      rfl
    · rw [pwmRun_period_of_raws_const h hon hcnt (by omega) (by omega) hlen hraws]
      have h' : PwmGen.CarrierInv { g with last_raw_u := 1#1, dt_counter := 0 } := ⟨hperiod, h.cnt_ge, h.cnt_lt⟩
      exact steady_period_of_raws_const h' hon hcnt rfl rfl hlen
        (pwmRaws_all_on h' (show g.cnt + g.period_counts.toNat ≤ onCounts g.period_counts duty by omega))

/-- A blanked start and the rest of a stretch, as blocks and tick by tick. -/
theorem blocks_eq_map_range {α : Type} (off on : α) (D n : Nat) :
    List.replicate (min D n) off ++ List.replicate (n - D) on =
      (List.range n).map (fun k : Nat => if D ≤ k then on else off) := by
  apply List.ext_getElem
  · rw [List.length_append, List.length_replicate, List.length_replicate, List.length_map, List.length_range]
    omega
  · intro k hk hk'
    rw [List.getElem_append, List.getElem_map, List.getElem_range]
    rw [List.length_map, List.length_range] at hk'
    split
    · next hlt =>
      rw [List.length_replicate] at hlt
      rw [List.getElem_replicate, if_neg (by omega)]
    · next hge =>
      rw [List.length_replicate] at hge
      rw [List.getElem_replicate, if_pos (by omega)]

/-- The two stretches of a period as blocks and tick by tick. -/
theorem period_blocks_eq_map_range {α : Type} (off high low : α) (D n m : Nat) :
    (List.replicate (min D n) off ++ List.replicate (n - D) high) ++
        (List.replicate (min D m) off ++ List.replicate (m - D) low) =
      (List.range (n + m)).map (fun k : Nat =>
        if (D : Int) ≤ k ∧ (k : Int) < n then high else if (n : Int) + D ≤ k then low else off) := by
  rw [blocks_eq_map_range, blocks_eq_map_range, List.range_add, List.map_append, List.map_map]
  congr 1
  · refine List.map_congr_left fun k hk => ?_
    have hlt := List.mem_range.mp hk
    rw [if_neg (show ¬(n : Int) + D ≤ k by omega)]
    exact if_congr (by omega) rfl rfl
  · refine List.map_congr_left fun k _ => ?_
    rw [Function.comp_apply, if_neg (show ¬((D : Int) ≤ (n + k : Nat) ∧ ((n + k : Nat) : Int) < n) by omega)]
    exact if_congr (by omega) rfl rfl

/-- The part of a period with the raw gate on, from cnt = 0 with the flag off. -/
theorem on_stretch {g : PwmGen} {duty : NUM} {n : Nat} (h : g.CarrierInv) (hon : 0 < g.dead_counts) (hcnt : g.cnt = 0)
    (hlast : g.last_raw_u = 0#1) (hn : onCounts g.period_counts duty = n) (hpos : 0 < n) (hlt : n < g.period_counts) :
    pwmGates g (List.replicate n duty) =
        List.replicate (min g.dead_counts.toNat n) ⟨0#1, 0#1⟩ ++
          List.replicate (n - g.dead_counts.toNat) ⟨1#1, 0#1⟩ ∧
      (pwmRun g (List.replicate n duty)).last_raw_u = 1#1 ∧ (pwmRun g (List.replicate n duty)).cnt = n := by
  have hraws : ∀ x ∈ pwmRaws g (List.replicate n duty), x = 1#1 := pwmRaws_all_on h (by omega)
  obtain ⟨hgates, hflag⟩ := edge_stretch hon (by rw [hlast]; decide) hraws
  rw [List.length_replicate] at hgates
  refine ⟨hgates, hflag (by simpa using hpos.ne'), ?_⟩
  rw [pwmRun_cnt_of_carrier h, List.length_replicate, hcnt, zero_add, Int.emod_eq_of_lt (by omega) hlt]

/-- The part of a period with the raw gate off, from cnt = on_counts with the flag on. -/
theorem off_stretch {g : PwmGen} {duty : NUM} {m : Nat} (h : g.CarrierInv) (hon : 0 < g.dead_counts)
    (hcnt : g.cnt = onCounts g.period_counts duty) (hlast : g.last_raw_u = 1#1) (hm : g.cnt + m = g.period_counts) :
    pwmGates g (List.replicate m duty) =
        List.replicate (min g.dead_counts.toNat m) ⟨0#1, 0#1⟩ ++
          List.replicate (m - g.dead_counts.toNat) ⟨0#1, 1#1⟩ ∧
      (pwmRun g (List.replicate m duty)).last_raw_u = 0#1 ∧ (pwmRun g (List.replicate m duty)).cnt = 0 := by
  have hraws : ∀ x ∈ pwmRaws g (List.replicate m duty), x = 0#1 := pwmRaws_all_off h hm.le hcnt.ge
  have hpos : m ≠ 0 := by linarith [h.cnt_lt]
  obtain ⟨hgates, hflag⟩ := edge_stretch hon (by rw [hlast]; decide) hraws
  rw [List.length_replicate] at hgates
  refine ⟨hgates, hflag (by simpa using hpos), ?_⟩
  rw [pwmRun_cnt_of_carrier h, List.length_replicate, hm, Int.emod_self]

/-- Settles O34: the on stretch, and the off stretch from where it ends; each begins with an edge. -/
theorem steadyPatternOfOnePeriod : Obligations.SteadyPatternOfOnePeriod := by
  intro g duty hperiod hon hcap hcnt hlast
  dsimp only
  intro hpos hlt
  have h : g.CarrierInv := ⟨hperiod, by omega, by omega⟩
  have hfloor : onCounts g.period_counts duty = ⌊duty * g.period_counts⌋ := by
    rw [onCounts, clamp_int (by omega), floor_eq]
    omega
  obtain ⟨n, hn⟩ := Int.eq_ofNat_of_zero_le hpos.le
  obtain ⟨m, hm⟩ := Int.eq_ofNat_of_zero_le (show 0 ≤ g.period_counts - n by omega)
  rw [hn] at hfloor hlt ⊢
  obtain ⟨hgates, hflag, hcnt'⟩ := on_stretch h hon hcnt hlast hfloor (by omega) hlt
  have hperiod' := pwmRun_period_of_carrier h (List.replicate n duty)
  have hdead' := pwmRun_dead g (List.replicate n duty)
  obtain ⟨hgates', hflag', hwrap⟩ := off_stretch (m := m) (pwmRun_carrierInv h (List.replicate n duty))
    (hdead'.symm ▸ hon) (by rw [hcnt', hperiod', hfloor]) hflag (by omega)
  rw [show g.period_counts.toNat = n + m by omega, List.replicate_add, pwmGates_append, pwmRun_append, hgates, hgates',
    hdead']
  refine ⟨?_, hwrap, hflag', ?_, ?_⟩
  · rw [period_blocks_eq_map_range, Int.toNat_of_nonneg hon.le]
  · rw [← pwmRun_append, pwmRun_period_of_carrier h]
  · rw [pwmRun_dead, hdead']

/-- 41_pwm_generator.md R80: the gates are the raw pair on every tick. -/
theorem pwmGates_of_deadtime_off {g : PwmGen} (h : g.dead_counts ≤ 0) (ds : List NUM) :
    pwmGates g ds = (pwmRaws g ds).map emitRaw := by
  induction ds generalizing g with
  | nil => rfl
  | cons d ds ih =>
    rw [pwmGates, pwmRaws, List.map_cons, pwmStep_gates_of_not_blanked (.inl h), ih (by rwa [pwmStep_dead])]

/-- Settles O36: the tick's S5, and the two defaults and the rounding of I2. -/
theorem noDeadtimePath : Obligations.NoDeadtimePath := by
  refine ⟨fun g ds hoff => ?_, fun P h => ?_⟩
  · rw [pwmGates_of_deadtime_off hoff.le]
    refine ⟨rfl, fun hmem => ?_⟩
    obtain ⟨b, -, hb⟩ := List.mem_map.mp hmem
    exact emitRaw_ne_off b hb
  · obtain hdeadtime | hTs | hhalf := h
    · exact deadCounts_of_degenerate (.inr hdeadtime) _
    · exact deadCounts_of_degenerate (.inl hTs) _
    · exact deadCounts_of_lt_half hhalf (by linarith [two_le_periodCounts P])

/-- The raw gate of the first tick after INIT: cnt is 0, so it is on from one count on. -/
theorem rawOf_pwmInit (P : Params) {duty : NUM} (h0 : 0 ≤ duty) (h1 : duty ≤ 1) :
    rawOf (pwmInit P) duty = if 1 ≤ duty * periodCounts P then 1#1 else 0#1 := by
  have hperiod := two_le_periodCounts P
  have hnonneg : 0 ≤ (pwmInit P).period_counts := zero_le_two.trans hperiod
  rw [rawOf_of_two_le hperiod, onCounts_eq_floor hnonneg h0 h1, rawHigh]
  have hiff : (pwmInit P).cnt < ⌊duty * (pwmInit P).period_counts⌋ ↔ 1 ≤ duty * periodCounts P := Int.floor_pos
  exact if_congr hiff rfl rfl

/-- 41_pwm_generator.md R81: a start-up edge. -/
theorem pwmInit_response_of_one_le {P : Params} {duty : NUM} (h0 : 0 ≤ duty) (h1 : duty ≤ 1) (hon : DeadtimeOn P)
    (hone : 1 ≤ duty * periodCounts P) : outVector (pwmStep (pwmInit P) duty).2 = ⟨0#1, 0#1⟩ := by
  have hlast : (pwmInit P).last_raw_u = 0#1 := rfl
  have harmed : armed (pwmInit P) 1#1 = (pwmInit P).dead_counts := armed_of_edge (by rw [hlast]; decide)
  refine pwmStep_response_of_blanked ⟨hon, ?_⟩
  rw [rawOf_pwmInit P h0 h1, if_pos hone, harmed]
  exact hon

/-- 41_pwm_generator.md R81: no edge, and no window open. -/
theorem pwmInit_response_of_lt_one {P : Params} {duty : NUM} (h0 : 0 ≤ duty) (h1 : duty ≤ 1)
    (hone : duty * periodCounts P < 1) : outVector (pwmStep (pwmInit P) duty).2 = ⟨0#1, 1#1⟩ := by
  have hraw := rawOf_pwmInit P h0 h1
  rw [if_neg hone.not_ge] at hraw
  have harmed : armed (pwmInit P) 0#1 = 0 := armed_of_no_edge rfl
  rw [pwmStep_gates_of_not_blanked (.inr (by rw [hraw, harmed])), hraw]
  rfl

/-- Settles O37: the STEP is PWM.STEP on the state that PWM.INIT leaves, where the raw gate is an edge exactly when it
is on. -/
theorem firstTickAfterInit : Obligations.FirstTickAfterInit := by
  intro s a b v d hfits
  dsimp only
  obtain ⟨hlo, hhi⟩ := ctrlStep_duty_bounds s.P ctrlInit v
  have h0 : 0 ≤ (ctrlStep s.P ctrlInit v).2 := by linarith
  have h1 : (ctrlStep s.P ctrlInit v).2 ≤ 1 := by linarith
  have hrun := runInstrs_cons_of_next (exec_init_of_fits hfits) [.step a b v d]
  rw [runInstrs_cons_of_next (exec_step_of_regs (setRegs_regs s (Regs.initial s.P)) a b v d), runInstrs_nil] at hrun
  exact ⟨_, _, hrun, rfl, pwmInit_response_of_one_le h0 h1, pwmInit_response_of_lt_one h0 h1⟩

end Sys2Proof.Machine
end

section
/-! PROOF. The lifecycle: what INIT writes and that it forgets the history, the whole effect of a STEP with deadtime off
and on, the inputs that a STEP ignores, and TERM (42_lifecycle.md R90 to R95). -/

namespace Sys2Proof.Machine

/-- I2 of PWM.INIT (41_pwm_generator.md R70): the argument of round is positive where the test passes, so of the clamp
only the cap is left. -/
theorem deadCounts_eq (P : Params) {period : Int} (hperiod : 0 ≤ period) :
    deadCounts P period =
      if 0 < P.deadtime_s ∧ 0 < P.Ts then min ⌊P.deadtime_s / P.Ts + 1 / 2⌋ (period / 2) else 0 := by
  unfold deadCounts
  split
  · next h =>
    obtain ⟨hdeadtime, hTs⟩ := h
    have hquot : 0 ≤ P.deadtime_s / P.Ts := by positivity
    have hround := round_nonneg hquot
    rw [div2_eq, clamp_int (by omega), ← round_of_nonneg hquot]
    omega
  · rfl

/-- Settles O5: where the width fits, INIT writes CTRL.INIT's field and PWM.INIT's five, by the equations of I1 and I2. -/
theorem initWritesResetTable : Obligations.InitWritesResetTable := by
  intro s hfits
  dsimp only
  have hperiod := two_le_periodCounts s.P
  rw [← periodCounts_eq, ← deadCounts_eq s.P (by omega)]
  exact exec_init_of_fits hfits

/-- 10_state.md R25, 00_scope.md R8: no run of operations writes the parameters or the width. -/
theorem runInstrs_next_constants {is : List Instr} {s t : State} (h : runInstrs is s = .next t) :
    t.P = s.P ∧ t.wCnt = s.wCnt := by
  induction is generalizing s with
  | nil => cases h; exact ⟨rfl, rfl⟩
  | cons i is ih =>
    obtain ⟨u, hu, hrest⟩ := runInstrs_cons_next h
    obtain ⟨hP, hwCnt⟩ := ih hrest
    exact ⟨hP.trans (exec_next_P hu), hwCnt.trans (exec_next_wCnt hu)⟩

/-- Settles O10: the fields that INIT writes depend on the parameters alone, and these stand over the run. -/
theorem reinitDiscardsHistory : Obligations.ReinitDiscardsHistory := by
  intro is s t hfits hrun
  obtain ⟨hP, hwCnt⟩ := runInstrs_next_constants hrun
  refine ⟨Regs.initial s.P, exec_init_of_fits hfits, ?_⟩
  rw [← hP]
  exact exec_init_of_fits (by rwa [hP, hwCnt])

/-- The Controller's duty is in [0, 1], so the clamp of S2 moves nothing in a STEP (41_pwm_generator.md R74). -/
theorem rawOf_ctrlStep (P : Params) (c : Controller) (v : NUM) (g : PwmGen) :
    rawOf g (ctrlStep P c v).2 =
      if g.cnt < ⌊(ctrlStep P c v).2 * (max 2 g.period_counts : Int)⌋ then 1#1 else 0#1 := by
  obtain ⟨hlo, hhi⟩ := ctrlStep_duty_bounds P c v
  exact rawOf_eq (by linarith) (by linarith)

/-- PWM.STEP through S5. -/
theorem pwmStep_eq_of_deadtime_off {g : PwmGen} (h : g.dead_counts ≤ 0) (duty : NUM) :
    pwmStep g duty =
      ({ g with
          period_counts := max 2 g.period_counts
          cnt := if max 2 g.period_counts ≤ g.cnt + 1 then 0 else g.cnt + 1 },
        emitRaw (rawOf g duty)) := by
  rw [pwmStepTransition g duty, if_pos h, ← rawOf_eq_clamped]
  rfl

/-- PWM.STEP through S4a to S4d: only the blanking counter and the gates depend on which arm of S4b is taken. -/
theorem pwmStep_eq_of_deadtime_on {g : PwmGen} (h : 0 < g.dead_counts) (duty : NUM) :
    pwmStep g duty =
      ({ period_counts := max 2 g.period_counts
         dead_counts := g.dead_counts
         cnt := if max 2 g.period_counts ≤ g.cnt + 1 then 0 else g.cnt + 1
         last_raw_u := rawOf g duty
         dt_counter :=
           if 0 < armed g (rawOf g duty) then armed g (rawOf g duty) - 1 else armed g (rawOf g duty) },
        if 0 < armed g (rawOf g duty) then ⟨0#1, 0#1⟩ else emitRaw (rawOf g duty)) := by
  rw [pwmStepTransition g duty, if_neg h.not_ge, ← rawOf_eq_clamped, ← armed_eq]
  split <;> rfl

/-- Settles O13: a STEP is a tick, the PI law and then S1 to S3, S5 and S6. -/
theorem stepResultWithoutDeadtime : Obligations.StepResultWithoutDeadtime := by
  intro s r vin iin v iout hr hoff
  dsimp only
  rw [← ctrlStep_integ, ← ctrlStep_duty, ← rawOf_ctrlStep, exec_step_of_regs hr, tick,
    pwmStep_eq_of_deadtime_off hoff]
  rfl

/-- Settles O14: a STEP is a tick, the PI law and then S1 to S3, S4a to S4d and S6. -/
theorem stepResultWithDeadtime : Obligations.StepResultWithDeadtime := by
  intro s r vin iin v iout hr hon
  dsimp only
  rw [← ctrlStep_integ, ← ctrlStep_duty, ← rawOf_ctrlStep, ← armed_eq, exec_step_of_regs hr, tick,
    pwmStep_eq_of_deadtime_on hon]
  dsimp only
  rw [apply_ite outVector]
  rfl

/-- Settles O17: a STEP is the tick of its parameters, fields and Vout, in which no other element occurs. -/
theorem stepReadsOnlyFieldsAndVout : Obligations.StepReadsOnlyFieldsAndVout := by
  intro s s' r a b d a' b' d' v hP hr hr'
  refine ⟨(tick s.P r v).1, outVector (tick s.P r v).2, exec_step_of_regs hr a b v d, ?_⟩
  rw [hP]
  exact exec_step_of_regs hr' a' b' v d'

/-- Settles O27: the no-op of 42_lifecycle.md R92. -/
theorem termChangesNothing : Obligations.TermChangesNothing := fun _ => rfl

/-- Sequences that answer alike from every state answer alike behind the same operations, refusals included. -/
theorem runInstrs_append_congr {bs cs : List Instr} (h : ∀ s, runInstrs bs s = runInstrs cs s) (as : List Instr)
    (s : State) : runInstrs (as ++ bs) s = runInstrs (as ++ cs) s := by
  induction as generalizing s with
  | nil => exact h s
  | cons i is ih =>
    rw [List.cons_append, List.cons_append]
    obtain ⟨t, ht⟩ | ⟨x, hx⟩ := outcome_cases (exec i s)
    · rw [runInstrs_cons_of_next ht, runInstrs_cons_of_next ht, ih]
    · rw [runInstrs_cons_of_refused hx, runInstrs_cons_of_refused hx]

/-- Settles O28: TERM hands on the very state it finds, to whatever follows. -/
theorem termLeavesNoTrace : Obligations.TermLeavesNoTrace :=
  fun as bs s => runInstrs_append_congr (fun t => runInstrs_cons_of_next (termChangesNothing t) bs) as s

end Sys2Proof.Machine
end

section
/-! PROOF. The stops: an operation or a step never faults, and everything that can have refused a step
(60_exceptions.md R100, R105). -/

namespace Sys2Proof.Machine

/-- Only an instance whose counters have a finite width can fail to fit its period (00_scope.md R8). -/
theorem not_fitsWidth_iff {wCnt : Option Nat} {P : Params} :
    ¬ FitsWidth wCnt P ↔ ∃ w, wCnt = some w ∧ 2 ^ w - 1 < periodCounts P := by
  cases wCnt with
  | none => simp [FitsWidth, fitsWidth]
  | some w => simp [FitsWidth]

/-- Everything that can have refused a step: the reserved code, or the operation the oldest command decodes to. -/
theorem step_refused_cases {s : State} {x : Refusal} (h : step s = .refused x) :
    ∃ c rest, s.pending = c :: rest ∧
      ((decode c = .reservedOp ∧ x = .reservedOp) ∨
       ∃ i, decode c = .instr i ∧ exec i (s.setPending rest) = .refused x) := by
  cases hp : s.pending with
  | nil => cases (step_of_nil hp).symm.trans h
  | cons c rest =>
    refine ⟨c, rest, rfl, ?_⟩
    cases hd : decode c with
    | instr i => exact .inr ⟨i, rfl, (step_of_instr hp hd).symm.trans h⟩
    | reservedOp =>
      cases (step_of_reservedOp hp hd).symm.trans h
      exact .inl ⟨rfl, rfl⟩

/-- Settles O41: `Fault` has no value; forward, the cases of the refused step and then of the refused operation; backward,
the decoder's equation for each of the three codes and the refusal of the operation it names. -/
theorem stopsAreExactlyTheClosedList : Obligations.StopsAreExactlyTheClosedList := by
  refine fun s => ⟨nofun, fun x => ⟨fun h => ?_, ?_⟩⟩
  · obtain ⟨c, rest, hp, ⟨hd, rfl⟩ | ⟨i, hd, hexec⟩⟩ := step_refused_cases h
    · exact ⟨c, rest, hp, .inl ⟨rfl, (decode_eq_reservedOp_iff c).mp hd⟩⟩
    · have hop : c.op = (encode i).op := (encode_op_of_decode hd).symm
      obtain ⟨rfl, hwide, rfl⟩ | ⟨_, _, _, _, rfl, hregs, rfl⟩ := exec_refused_cases hexec
      · exact ⟨c, rest, hp, .inr (.inr ⟨rfl, hop, not_fitsWidth_iff.mp hwide⟩)⟩
      · exact ⟨c, rest, hp, .inr (.inl ⟨rfl, hop, hregs⟩)⟩
  · rintro ⟨c, rest, hp, ⟨rfl, hop⟩ | ⟨rfl, hop, hregs⟩ | ⟨rfl, hop, hwide⟩⟩
    · exact step_of_reservedOp hp (decode_of_reserved hop)
    · rw [step_of_instr hp (decode_of_opStep hop)]
      exact exec_step_of_no_regs (s := s.setPending rest) hregs _ _ _ _
    · rw [step_of_instr hp (decode_of_opInit hop)]
      exact exec_init_of_not_fits (s := s.setPending rest) (not_fitsWidth_iff.mpr hwide)

end Sys2Proof.Machine
end

section
/-! PROOF. Reset and timing hazards: reset as INIT from power-on, when the two counts of PWM.INIT realise the nominal
period and deadtime, and the run of a host that keeps the contract (70_reset_and_hazards.md R120, R129, R131). -/

namespace Sys2Proof.Machine

/-- Settles O12: unbounded counters fit every period, and the fields that INIT writes are those of reset. -/
theorem resetIsInitFromPowerOn : Obligations.ResetIsInitFromPowerOn :=
  exec_init_of_fits (s := State.powerOn Config.params none) rfl

theorem floor_intCast_add_half (n : Int) : ⌊(n : NUM) + 1 / 2⌋ = n := by
  rw [Int.floor_eq_iff]
  constructor <;> linarith

/-- With valid timing period_counts is the quotient itself exactly when that is a whole number of at least PERIOD_MIN. -/
theorem periodCounts_eq_quotient_iff {P : Params} (h : ValidTiming P) :
    (periodCounts P : NUM) = 1 / (P.fsw * P.Ts) ↔ ∃ n : Int, 2 ≤ n ∧ 1 / (P.fsw * P.Ts) = n := by
  constructor
  · exact fun heq => ⟨periodCounts P, two_le_periodCounts P, heq.symm⟩
  · obtain ⟨hTs, hfsw⟩ := h
    rintro ⟨n, hn, hq⟩
    rw [periodCounts_eq, if_pos ⟨hTs, hfsw⟩, hq, floor_intCast_add_half, max_eq_right hn]

/-- With a positive deadtime and tick dead_counts is the quotient itself exactly when that is a whole number within the
cap, twice which is at most the period. -/
theorem deadCounts_eq_quotient_iff {P : Params} (hTs : 0 < P.Ts) (hdeadtime : 0 < P.deadtime_s) {period : Int}
    (hperiod : 0 ≤ period) :
    (deadCounts P period : NUM) = P.deadtime_s / P.Ts ↔ ∃ n : Int, 2 * n ≤ period ∧ P.deadtime_s / P.Ts = n := by
  constructor
  · intro heq
    obtain ⟨-, hcap⟩ := deadCounts_bounds P hperiod
    rw [div2_eq] at hcap
    exact ⟨deadCounts P period, by omega, heq.symm⟩
  · rintro ⟨n, hn, hq⟩
    rw [deadCounts_eq P hperiod, if_pos ⟨hdeadtime, hTs⟩, hq, floor_intCast_add_half, min_eq_left (by omega)]

/-- Settles O7: counted in ticks of Ts, each nominal time is the quotient that its count rounds. -/
theorem nominalTimingIsExactOnlyOnWholeTicks : Obligations.NominalTimingIsExactOnlyOnWholeTicks := by
  refine fun P => ⟨fun hvalid => ?_, fun hTs hdeadtime => ?_⟩
  · rw [← eq_div_iff hvalid.1.ne', div_div]
    exact periodCounts_eq_quotient_iff hvalid
  · rw [← eq_div_iff hTs.ne']
    have hperiod := two_le_periodCounts P
    exact deadCounts_eq_quotient_iff hTs hdeadtime (by omega)

/-- Settles O8: the cap of I2 is at least 1, so dead_counts is positive exactly when the rounded quotient is. -/
theorem deadtimeOnExactlyFromHalfTick : Obligations.DeadtimeOnExactlyFromHalfTick := by
  intro P
  have hperiod := two_le_periodCounts P
  have hcap : 0 < periodCounts P / 2 := by omega
  rw [DeadtimeOn, deadCounts_eq P (by omega), ← and_assoc]
  split
  · next hpos =>
    rw [lt_min_iff, Int.floor_pos, and_iff_left hcap, and_iff_right hpos]
    constructor <;> intro <;> linarith
  · next hneg => simp [hneg]

theorem runInstrs_next_pending {is : List Instr} {s t : State} (h : runInstrs is s = .next t) :
    t.pending = s.pending := by
  induction is generalizing s with
  | nil => cases h; rfl
  | cons i is ih =>
    obtain ⟨u, hu, hrest⟩ := runInstrs_cons_next h
    exact (ih hrest).trans (exec_next_pending hu)

theorem runInstrs_keeps_inv {is : List Instr} {s t : State} (hs : s.Inv) (h : runInstrs is s = .next t) : t.Inv := by
  induction is generalizing s with
  | nil => cases h; exact hs
  | cons i is ih =>
    obtain ⟨u, hu, hrest⟩ := runInstrs_cons_next h
    exact ih (exec_keeps_inv hs hu) hrest

/-- 20_memory.md R41: each STEP answers exactly once. -/
theorem runInstrs_steps_responses_length {xs : List (Vector NUM 4)} {s t : State}
    (h : runInstrs (xs.map stepOf) s = .next t) : t.responses.length = s.responses.length + xs.length := by
  induction xs generalizing s with
  | nil => cases h; rfl
  | cons x xs ih =>
    obtain ⟨u, hu, hrest⟩ := runInstrs_cons_next h
    obtain ⟨r, -, rfl⟩ := exec_step_next hu
    rw [ih hrest, respond_responses, setRegs_responses, List.length_append, List.length_singleton, List.length_cons]
    omega

/-- Where the width fits INIT completes, and then every STEP, each with one response; the TERM changes nothing
(42_lifecycle.md R92). -/
theorem runInstrs_contractRun {s : State} (h : FitsWidth s.wCnt s.P) (xs : List (Vector NUM 4)) :
    ∃ t r, runInstrs (contractRun xs) s = .next t ∧ t.regs = some r ∧
      t.responses.length = s.responses.length + xs.length := by
  rw [contractRun, runInstrs_cons_of_next (exec_init_of_fits h), termLeavesNoTrace, List.append_nil]
  obtain ⟨t, r, hrun, hr, -⟩ :=
    runInstrs_steps_keep (p := fun _ => True) xs (fun _ _ _ => trivial) (setRegs_regs s (Regs.initial s.P)) trivial
  have hlen := runInstrs_steps_responses_length hrun
  rw [setRegs_responses] at hlen
  exact ⟨t, r, hrun, hr, hlen⟩

/-- Settles O43: the port runs the operations themselves, the contract's operations complete, and the invariant that
each of them keeps speaks of the parameters and the width of power-on. -/
theorem contractRunIsSafe : Obligations.ContractRunIsSafe := by
  rintro P w _ hfits ⟨xs, rfl⟩
  obtain ⟨t, r, hrun, hr, hlen⟩ := runInstrs_contractRun (s := State.powerOn P w) hfits xs
  have hport := core_run_encode_eq_runInstrs (contractRun xs) (s := State.powerOn P w) rfl
  obtain ⟨hregs, hlegal⟩ := runInstrs_keeps_inv (State.powerOn_inv P w) hrun
  obtain ⟨hP, hwCnt⟩ := runInstrs_next_constants hrun
  have hrInv : r.Inv t.P t.wCnt := hregs r hr
  rw [hP, hwCnt] at hrInv
  have hcount : t.responses.length + 2 = (contractRun xs).length := by simp [contractRun, hlen, State.powerOn]
  exact ⟨t, r, hport.trans hrun, runInstrs_next_pending hrun, hcount, hlegal, hr, hrInv⟩

end Sys2Proof.Machine
end
